-- ==== Sys2Proof/Word.lean ====
section
/-! DEFINITION. The word types of CORE: the 32-bit command word and host register (10_state.md R30–R33), the
16-bit configuration register (20_memory.md R72) and the frame-buffer byte (10_state.md R41). Bit `i` has weight
`2 ^ i` (00_scope.md R22); every value is unsigned (10_state.md R56). -/

namespace Sys2Proof

/-- A frame-buffer byte: eight plane bits. -/
abbrev Byte := BitVec 8

/-- A configuration register. -/
abbrev Half := BitVec 16

/-- A command word or a host register. -/
abbrev Word := BitVec 32

end Sys2Proof
end

