-- ==== Sys2Proof/Config.lean ====
section
/-! DEFINITION. What an implementation of CORE fixes (00_scope.md section 3, 93_implementation_defined.md P1–P7)
and the free values (93_implementation_defined.md U2–U6). An `opaque` constant has no body: nothing can be proved
about the value it has. -/

namespace Sys2Proof

/-- The synthesis-time parameters of CORE. "A model takes each as an argument": the machine holds them as data that
no step changes. `us`, `tSck`, `tDeb` and `base` are left OPEN by the spec. -/
structure Params where
  /-- `CH_ADDR[c]`, the code that selects channel `c` (00_scope.md R11). -/
  chAddr : Vector (BitVec 3) 6
  /-- `COLOR_ACTIVE_LOW` (R12). -/
  colorActiveLow : Bool
  /-- `LAT_ACTIVE_HIGH` (R13). -/
  latActiveHigh : Bool
  /-- `IN_ACTIVE_LOW` (R14). -/
  inActiveLow : Bool
  /-- `EVQ_DEPTH` (R15). -/
  evqDepth : Nat
  /-- `US`, block clock cycles per microsecond: `CLK_HZ / 1_000_000` (R17). -/
  us : Nat
  /-- `T_SCK`, the serial bit period in block clock cycles (R18). -/
  tSck : Nat
  /-- `T_DEB`, the duration of the debounce pass in block clock cycles (R19). -/
  tDeb : Nat
  /-- `BASE`, the bus address of the register window (R20). -/
  base : Nat
  deriving DecidableEq, Repr

/-- OPEN (00_scope.md R17): `US` less one, so that `US ≥ 1`. -/
opaque Config.usLessOne : Nat

/-- OPEN (00_scope.md R18): half of `T_SCK`, less one, so that `T_SCK` is even and at least 2. -/
opaque Config.halfSckLessOne : Nat

/-- OPEN (00_scope.md R19): `T_DEB` less one, so that `T_DEB ≥ 1`. -/
opaque Config.tDebLessOne : Nat

/-- OPEN (00_scope.md R20): `BASE`. -/
opaque Config.base : Nat

/-- The parameters of `State.reset`: the values the spec fixes or chooses (00_scope.md R11–R15), and an opaque
constant for each value it leaves OPEN. -/
def Params.default : Params where
  chAddr := #v[1, 2, 3, 4, 5, 6]
  colorActiveLow := true
  latActiveHigh := true
  inActiveLow := true
  evqDepth := 16
  us := Config.usLessOne + 1
  tSck := 2 * (Config.halfSckLessOne + 1)
  tDeb := Config.tDebLessOne + 1
  base := Config.base

/-- `CNT_MAX`, where the debounce counter saturates (00_scope.md R16). -/
def Config.cntMax : Byte := 255

/-- FREE VALUE (93_implementation_defined.md U2): byte `b` of the board's `LATCHED` at power-up. -/
opaque Config.powerUpLatched : Nat → Byte

/-- FREE VALUE (U2, U5, U13): the contents of the board's shift stage where the spec allows any, at the `n`-th such
point of a run. -/
opaque Config.shiftStage : Nat → List Bool

/-- FREE VALUE (U3): the levels of `IN[5:0]` before the environment first sets them. -/
opaque Config.powerUpLines : BitVec 6

/-- FREE VALUE (U4): the level of `BUS_FAULT` before the environment first sets it. -/
opaque Config.powerUpBusFault : Bool

/-- FREE VALUE (U6): whether plane `p` of pixel `(x, y)` is lit while the address lines drive `111` and the board
holds the given latched bytes. -/
opaque Config.litAllHigh : Nat → Nat → Nat → List Byte → Bool

end Sys2Proof
end

