-- ==== Sys2Proof/Syntax.lean ====
section
/-! DEFINITION. The commands of CORE, one constructor per row of spec/opcode_table.json, with the fields of the row as
bit vectors of the field's width (30_encoding.md R91–R102); the command classes (R93); the names of the illegal
encodings (60_exceptions.md R241). A field of an `Instr` fits its encoding by its type; whether it lies in the
command's range is the command's own rule (30_encoding.md R103). -/

namespace Sys2Proof

/-- A command of CORE. -/
inductive Instr where
  | nop
  | clear
  | setPixel (x y : BitVec 4) (rgb : BitVec 3)
  | getPixel (x y : BitVec 4)
  | fbRead (row byte : BitVec 4)
  | fbWrite (row byte : BitVec 4) (val : BitVec 8)
  | select (ch : BitVec 4)
  | setAddr (addr : BitVec 3)
  | sendRow (row : BitVec 4)
  | sendBlank
  | sample
  | probe (x y : BitVec 4)
  | draw
  | scan
  | readGrid (bank : BitVec 1) (y : BitVec 4)
  | popEvent
  | cfgRead (idx : BitVec 8)
  | cfgWrite (idx : BitVec 8) (value : BitVec 16)
  | clrStatus
  | softReset
  deriving DecidableEq, Repr

/-- The command classes of 30_encoding.md R93. -/
inductive CmdClass where
  /-- Accepted at any time. -/
  | always
  /-- Class Q: refused while BUSY. -/
  | quiet
  /-- Class B: refused while BUSY and while FAULT. -/
  | bus
  deriving DecidableEq, Repr

/-- Why a word is no command (30_encoding.md R104, 60_exceptions.md R241). Every cause is `ERR_ILLEGAL`. -/
inductive Illegal where
  /-- A must-be-0 bit of the command's format is set. -/
  | reservedBits
  /-- `SEND_BLANK` with `ROW ≠ 0`. -/
  | blankWithRow
  /-- `OP = 0xF` with `SUB` in 4..15. -/
  | unassignedSub
  /-- `CFG_READ` with `VALUE ≠ 0`. -/
  | cfgReadValue
  deriving DecidableEq, Repr

/-- A mnemonic of the opcode table. -/
inductive Mnemonic where
  | nop | clear | setPixel | getPixel | fbRead | fbWrite | select | setAddr | sendRow | sendBlank
  | sample | probe | draw | scan | readGrid | popEvent | cfgRead | cfgWrite | clrStatus | softReset
  deriving DecidableEq, Repr

/-- The mnemonic of a command. -/
def Instr.mnemonic : Instr → Mnemonic
  | .nop => .nop
  | .clear => .clear
  | .setPixel _ _ _ => .setPixel
  | .getPixel _ _ => .getPixel
  | .fbRead _ _ => .fbRead
  | .fbWrite _ _ _ => .fbWrite
  | .select _ => .select
  | .setAddr _ => .setAddr
  | .sendRow _ => .sendRow
  | .sendBlank => .sendBlank
  | .sample => .sample
  | .probe _ _ => .probe
  | .draw => .draw
  | .scan => .scan
  | .readGrid _ _ => .readGrid
  | .popEvent => .popEvent
  | .cfgRead _ => .cfgRead
  | .cfgWrite _ _ => .cfgWrite
  | .clrStatus => .clrStatus
  | .softReset => .softReset

/-- An assembly term before its operands are known to fit: a mnemonic and its operands in the order of
30_encoding.md R107. -/
structure AsmTerm where
  mnemonic : Mnemonic
  operands : List Nat
  deriving DecidableEq, Repr

end Sys2Proof
end

