-- ==== Sys2Proof/WellFormed.lean ====
section
/-! DEFINITION. What makes an assembly term and a set of parameters well formed: the operand checks of
30_encoding.md R107 and the legality conditions of 00_scope.md R11–R19. An `Instr` needs no check: each of its fields
has the width of its encoding. -/

namespace Sys2Proof

/-- The first value too large for each operand of a mnemonic, in operand order (30_encoding.md R107). -/
def Mnemonic.operandBounds : Mnemonic → List Nat
  | .nop => []
  | .clear => []
  | .setPixel => [16, 16, 8]
  | .getPixel => [16, 16]
  | .fbRead => [16, 16]
  | .fbWrite => [16, 16, 256]
  | .select => [16]
  | .setAddr => [8]
  | .sendRow => [16]
  | .sendBlank => []
  | .sample => []
  | .probe => [16, 16]
  | .draw => []
  | .scan => []
  | .readGrid => [2, 16]
  | .popEvent => []
  | .cfgRead => [256]
  | .cfgWrite => [256, 65536]
  | .clrStatus => []
  | .softReset => []

/-- Whether each operand lies below its bound, one bound an operand. -/
def operandsFit : List Nat → List Nat → Bool
  | [], [] => true
  | v :: vs, b :: bs => decide (v < b) && operandsFit vs bs
  | _, _ => false

/-- An assembly term is well formed when it has the operands its mnemonic takes and each fits its field; any other
term "is an assembly error: the assembler refuses it and emits no word" (30_encoding.md R107). -/
def AsmTerm.wellFormed (t : AsmTerm) : Bool :=
  operandsFit t.operands t.mnemonic.operandBounds

/-- "the six codes are distinct, none is `000` … and none is `111`" (00_scope.md R11). -/
def Params.chAddrLegal (p : Params) : Bool :=
  decide p.chAddr.toList.Nodup && p.chAddr.toList.all fun a => decide (a ≠ 0) && decide (a ≠ 7)

/-- The legal range of `EVQ_DEPTH` (00_scope.md R15). -/
def Params.evqDepthLegal (p : Params) : Bool :=
  decide (1 ≤ p.evqDepth ∧ p.evqDepth ≤ 255)

/-- The legal timing parameters (00_scope.md R17–R19). -/
def Params.timingLegal (p : Params) : Bool :=
  decide (1 ≤ p.us ∧ 2 ≤ p.tSck ∧ p.tSck % 2 = 0 ∧ 1 ≤ p.tDeb)

/-- The parameters a model may be given. -/
def Params.legal (p : Params) : Bool :=
  p.chAddrLegal && p.evqDepthLegal && p.timingLegal

end Sys2Proof
end

