-- ==== Sys2Proof/Decode.lean ====
section
/-! DEFINITION. Decoding a command word (30_encoding.md R90–R104), total on 32-bit words and refusing an illegal one by
the name of its cause; the encoder; the rows of the opcode table as data; and the host's `decodeTableWord`. -/

namespace Sys2Proof

/-- The `OP` field of a command (30_encoding.md R91). -/
def Instr.op : Instr → BitVec 4
  | .nop => 0x0
  | .clear => 0x1
  | .setPixel _ _ _ => 0x2
  | .getPixel _ _ => 0x3
  | .fbRead _ _ => 0x4
  | .fbWrite _ _ _ => 0x5
  | .select _ => 0x6
  | .setAddr _ => 0x7
  | .sendRow _ => 0x8
  | .sendBlank => 0x8
  | .sample => 0x9
  | .probe _ _ => 0xA
  | .draw => 0xB
  | .scan => 0xC
  | .readGrid _ _ => 0xD
  | .popEvent => 0xE
  | .cfgRead _ => 0xF
  | .cfgWrite _ _ => 0xF
  | .clrStatus => 0xF
  | .softReset => 0xF

/-- The `OP` field of a word (30_encoding.md R90). -/
def opField (w : Word) : BitVec 4 := w.extractLsb' 28 4

/-- The `SUB` field of a word with `OP = 0xF` (30_encoding.md R90). -/
def subField (w : Word) : BitVec 4 := w.extractLsb' 24 4

/-- `i`, provided that the `n` must-be-0 bits from bit `lo` up are 0. -/
def ifZero (w : Word) (lo n : Nat) (cause : Illegal) (i : Instr) : Except Illegal Instr :=
  if w.extractLsb' lo n = 0 then .ok i else .error cause

/-- Format N (30_encoding.md R92): bits 27:0 must be 0. -/
def decodeN (w : Word) (i : Instr) : Except Illegal Instr :=
  ifZero w 0 28 .reservedBits i

/-- Format SR (30_encoding.md R99). -/
def decodeSR (w : Word) : Except Illegal Instr :=
  if w.extractLsb' 5 23 = 0 then
    if w.extractLsb' 4 1 = 1 then ifZero w 0 4 .blankWithRow .sendBlank
    else .ok (.sendRow (w.extractLsb' 0 4))
  else .error .reservedBits

/-- Format GR (30_encoding.md R100). -/
def decodeGR (w : Word) : Except Illegal Instr :=
  if w.extractLsb' 9 19 = 0 then
    ifZero w 4 4 .reservedBits (.readGrid (w.extractLsb' 8 1) (w.extractLsb' 0 4))
  else .error .reservedBits

/-- Format SYS (30_encoding.md R101). -/
def decodeSYS (w : Word) : Except Illegal Instr :=
  match (subField w).toNat with
  | 0 => ifZero w 8 16 .cfgReadValue (.cfgRead (w.extractLsb' 0 8))
  | 1 => .ok (.cfgWrite (w.extractLsb' 0 8) (w.extractLsb' 8 16))
  | 2 => ifZero w 0 24 .reservedBits .clrStatus
  | 3 => ifZero w 0 24 .reservedBits .softReset
  | _ => .error .unassignedSub

/-- The command a word stands for, or why it is illegal (30_encoding.md R94, R104). Decoding depends on the word
alone (R105). -/
def decode (w : Word) : Except Illegal Instr :=
  match (opField w).toNat with
  | 0 => decodeN w .nop
  | 1 => decodeN w .clear
  | 2 => ifZero w 11 17 .reservedBits
      (.setPixel (w.extractLsb' 0 4) (w.extractLsb' 4 4) (w.extractLsb' 8 3))
  | 3 => ifZero w 8 20 .reservedBits (.getPixel (w.extractLsb' 0 4) (w.extractLsb' 4 4))
  | 4 => ifZero w 8 20 .reservedBits (.fbRead (w.extractLsb' 4 4) (w.extractLsb' 0 4))
  | 5 => ifZero w 16 12 .reservedBits
      (.fbWrite (w.extractLsb' 4 4) (w.extractLsb' 0 4) (w.extractLsb' 8 8))
  | 6 => ifZero w 4 24 .reservedBits (.select (w.extractLsb' 0 4))
  | 7 => ifZero w 3 25 .reservedBits (.setAddr (w.extractLsb' 0 3))
  | 8 => decodeSR w
  | 9 => decodeN w .sample
  | 10 => ifZero w 8 20 .reservedBits (.probe (w.extractLsb' 0 4) (w.extractLsb' 4 4))
  | 11 => decodeN w .draw
  | 12 => decodeN w .scan
  | 13 => decodeGR w
  | 14 => decodeN w .popEvent
  | _ => decodeSYS w

/-- An operand field at bit `lo` of a word, zero-extended (30_encoding.md R102). -/
def atBit {n : Nat} (v : BitVec n) (lo : Nat) : Word := v.setWidth 32 <<< lo

/-- The word of a command (30_encoding.md R107). -/
def encode : Instr → Word
  | .nop => 0x00000000
  | .clear => 0x10000000
  | .setPixel x y rgb => 0x20000000 ||| atBit rgb 8 ||| atBit y 4 ||| atBit x 0
  | .getPixel x y => 0x30000000 ||| atBit y 4 ||| atBit x 0
  | .fbRead row byte => 0x40000000 ||| atBit row 4 ||| atBit byte 0
  | .fbWrite row byte val => 0x50000000 ||| atBit val 8 ||| atBit row 4 ||| atBit byte 0
  | .select ch => 0x60000000 ||| atBit ch 0
  | .setAddr addr => 0x70000000 ||| atBit addr 0
  | .sendRow row => 0x80000000 ||| atBit row 0
  | .sendBlank => 0x80000010
  | .sample => 0x90000000
  | .probe x y => 0xA0000000 ||| atBit y 4 ||| atBit x 0
  | .draw => 0xB0000000
  | .scan => 0xC0000000
  | .readGrid bank y => 0xD0000000 ||| atBit bank 8 ||| atBit y 0
  | .popEvent => 0xE0000000
  | .cfgRead idx => 0xF0000000 ||| atBit idx 0
  | .cfgWrite idx value => 0xF1000000 ||| atBit value 8 ||| atBit idx 0
  | .clrStatus => 0xF2000000
  | .softReset => 0xF3000000

/-- A row of spec/opcode_table.json: a word is the row's when it agrees with `pattern` on the bits of `mask`. -/
structure OpcodeRow where
  mnemonic : Mnemonic
  pattern : Word
  mask : Word
  deriving DecidableEq, Repr

/-- The rows of spec/opcode_table.json, in its order. -/
def opcodeRows : List OpcodeRow :=
  [⟨.nop, 0x00000000, 0xFFFFFFFF⟩, ⟨.clear, 0x10000000, 0xFFFFFFFF⟩,
   ⟨.setPixel, 0x20000000, 0xFFFFF800⟩, ⟨.getPixel, 0x30000000, 0xFFFFFF00⟩,
   ⟨.fbRead, 0x40000000, 0xFFFFFF00⟩, ⟨.fbWrite, 0x50000000, 0xFFFF0000⟩,
   ⟨.select, 0x60000000, 0xFFFFFFF0⟩, ⟨.setAddr, 0x70000000, 0xFFFFFFF8⟩,
   ⟨.sendRow, 0x80000000, 0xFFFFFFF0⟩, ⟨.sendBlank, 0x80000010, 0xFFFFFFFF⟩,
   ⟨.sample, 0x90000000, 0xFFFFFFFF⟩, ⟨.probe, 0xA0000000, 0xFFFFFF00⟩,
   ⟨.draw, 0xB0000000, 0xFFFFFFFF⟩, ⟨.scan, 0xC0000000, 0xFFFFFFFF⟩,
   ⟨.readGrid, 0xD0000000, 0xFFFFFEF0⟩, ⟨.popEvent, 0xE0000000, 0xFFFFFFFF⟩,
   ⟨.cfgRead, 0xF0000000, 0xFFFFFF00⟩, ⟨.cfgWrite, 0xF1000000, 0xFF000000⟩,
   ⟨.clrStatus, 0xF2000000, 0xFFFFFFFF⟩, ⟨.softReset, 0xF3000000, 0xFFFFFFFF⟩]

/-- Whether a word matches a row: `(w & mask) = match` of 30_encoding.md R94. -/
def OpcodeRow.matchesWord (r : OpcodeRow) (w : Word) : Bool := w &&& r.mask == r.pattern

/-- The instruction the decoder reads from a table row's word of `nbits` bits, numbered as the table numbers them; a
command is one 32-bit word (30_encoding.md R90), so any bit above `nbits` is 0 and a longer word is no command. -/
def decodeTableWord (nbits w : Nat) : Option Instr :=
  if nbits ≤ 32 then (decode (BitVec.ofNat 32 (w % 2 ^ nbits))).toOption else none

/-- The command an assembly term stands for: `none` for a term that is not well formed (30_encoding.md R107). -/
def AsmTerm.toInstr (t : AsmTerm) : Option Instr :=
  if t.wellFormed then
    match t.mnemonic, t.operands with
    | .nop, _ => some .nop
    | .clear, _ => some .clear
    | .setPixel, [x, y, c] => some (.setPixel (.ofNat 4 x) (.ofNat 4 y) (.ofNat 3 c))
    | .getPixel, [x, y] => some (.getPixel (.ofNat 4 x) (.ofNat 4 y))
    | .fbRead, [r, b] => some (.fbRead (.ofNat 4 r) (.ofNat 4 b))
    | .fbWrite, [r, b, v] => some (.fbWrite (.ofNat 4 r) (.ofNat 4 b) (.ofNat 8 v))
    | .select, [c] => some (.select (.ofNat 4 c))
    | .setAddr, [a] => some (.setAddr (.ofNat 3 a))
    | .sendRow, [r] => some (.sendRow (.ofNat 4 r))
    | .sendBlank, _ => some .sendBlank
    | .sample, _ => some .sample
    | .probe, [x, y] => some (.probe (.ofNat 4 x) (.ofNat 4 y))
    | .draw, _ => some .draw
    | .scan, _ => some .scan
    | .readGrid, [b, y] => some (.readGrid (.ofNat 1 b) (.ofNat 4 y))
    | .popEvent, _ => some .popEvent
    | .cfgRead, [i] => some (.cfgRead (.ofNat 8 i))
    | .cfgWrite, [i, v] => some (.cfgWrite (.ofNat 8 i) (.ofNat 16 v))
    | .clrStatus, _ => some .clrStatus
    | .softReset, _ => some .softReset
    | _, _ => none
  else none

end Sys2Proof
end

