-- ==== Sys2Proof/Machine/Levels.lean ====
section
/-! DEFINITION. The levels and bytes the parameters give (00_scope.md R12–R14, 42_serializer.md R166), and bit writes in
a byte (00_scope.md R22). A level is `true` for 1 and `false` for 0. -/

namespace Sys2Proof

/-- `ON`: the level of a frame-buffer bit whose LED plane is on (00_scope.md R12). -/
def Params.onLevel (p : Params) : Bool := !p.colorActiveLow

/-- `OFFBYTE`: eight plane bits off (00_scope.md R12). -/
def Params.offByte (p : Params) : Byte := if p.colorActiveLow then 0xFF else 0x00

/-- Eight plane bits on. -/
def Params.onByte (p : Params) : Byte := if p.colorActiveLow then 0x00 else 0xFF

/-- `LAT_IDLE` (00_scope.md R13). -/
def Params.latIdle (p : Params) : Bool := !p.latActiveHigh

/-- `LAT_PULSE = 1 − LAT_IDLE` (00_scope.md R13). -/
def Params.latPulse (p : Params) : Bool := !p.latIdle

/-- `active(v)`: whether an input level means "press sensed" (00_scope.md R14). -/
def Params.active (p : Params) (level : Bool) : Bool := if p.inActiveLow then !level else level

/-- A byte with bit `i` at level `v`. -/
def setBit (b : Byte) (i : Nat) (v : Bool) : Byte :=
  if v then b ||| (1#8 <<< i) else b &&& ~~~(1#8 <<< i)

end Sys2Proof
end

