-- ==== Sys2Proof/Machine/State.lean ====
section
/-! DEFINITION. The state of CORE and of the world it is wired to, as plain data; the reasons a step can stop; the
machine right after reset. INVENTORY.md lists every field with the rule that names it. -/

namespace Sys2Proof.Machine

/-! ### Arrays -/

/-- A frame-buffer space as a list of (address, byte) cells: addresses strictly rising, no cell equal to what an
unlisted address reads as (`OFFBYTE`). Byte `(r, b)` of a 6 × 9 buffer is cell `9 r + b`. -/
abbrev Memory := List Host.Cell

/-- A 12 × 12 grid, written `[y][x]` (00_scope.md R29). -/
abbrev Grid (α : Type) := Vector (Vector α 12) 12

/-- A row of 9 bytes (42_serializer.md R160). -/
abbrev Row := Vector Byte 9

/-! ### Registers and events -/

/-- The error codes of 60_exceptions.md R240 that are ever produced. -/
inductive ErrCode where
  | ok | illegal | busy | fault | range
  deriving DecidableEq, Repr

/-- `KIND` of an event (44_debounce.md R203). -/
inductive EventKind where
  | released | pressed
  deriving DecidableEq, Repr

/-- An event of the queue (44_debounce.md R203). -/
structure Event where
  kind : EventKind
  y : Fin 12
  x : Fin 12
  deriving DecidableEq, Repr

/-- The configuration registers (10_state.md R34–R38); reserved bits are not held. -/
structure CfgRegs where
  settleUs : Half
  latchUs : Half
  onTimeUs : Half
  debThresh : Byte
  antiGhost : Bool
  coarse : Bool
  irqEn : Bool
  deriving DecidableEq, Repr

/-- The reset values of the configuration (10_state.md R34–R38). -/
def CfgRegs.reset : CfgRegs where
  settleUs := 10
  latchUs := 1
  onTimeUs := 500
  debThresh := 4
  antiGhost := false
  coarse := false
  irqEn := false

/-- The output pins CORE drives, but for the level `EVT_IRQ`, which is computed (10_state.md R50). -/
structure Pins where
  a : BitVec 3
  ser : Bool
  sck : Bool
  lat : Bool
  deriving DecidableEq, Repr

/-- The levels of the input pins (10_state.md R51). -/
structure Inputs where
  lines : BitVec 6
  busFault : Bool
  rstN : Bool
  deriving DecidableEq, Repr

/-- The observation model of the board (10_state.md R52). `shifted` is oldest bit first. -/
structure Board where
  shifted : List Bool
  latched : Row
  deriving DecidableEq, Repr

/-! ### The sequencer -/

/-- Where a `ShiftOut` takes its row from (42_serializer.md R160). -/
inductive RowSource where
  /-- `FB[r]` (SEND_ROW). -/
  | fbRow (r : Fin 6)
  /-- `SNAP[c]` (DRAW, SCAN). -/
  | snapRow (c : Fin 6)
  /-- The blank row (42_serializer.md R166). -/
  | blank
  /-- `FB[y mod 6]` with the red bit of `(x, y)` on (PROBE). -/
  | fbProbe (x y : Fin 12)
  /-- `SNAP[y mod 6]` with the red bit of `(x, y)` on (SCAN). -/
  | snapProbe (x y : Fin 12)
  /-- `SNAP[c]` with every red bit on (the coarse check of SCAN). -/
  | snapCoarse (c : Fin 6)
  deriving DecidableEq, Repr

/-- Which configured time a `Wait` takes. -/
inductive WaitKind where
  | settle | onTime
  deriving DecidableEq, Repr

/-- A bus step of a long command (00_scope.md R24, 10_state.md R49). -/
inductive BusStep where
  /-- `SetAddr(a)` (41_multiplexer.md R143). -/
  | setAddr (a : BitVec 3)
  /-- `Wait(us)` (41_multiplexer.md R144). -/
  | wait (k : WaitKind)
  /-- `SNAP <- FB` (42_serializer.md R169). -/
  | snapshot
  /-- `SNAP <- FB; RAW <- all false` (43_scanner.md R186). -/
  | snapshotClear
  /-- The first step of `ShiftOut`: the row is copied and LAT made idle (42_serializer.md R161). -/
  | beginShift (src : RowSource)
  /-- One bit of `ShiftOut`; it stays in the progress until the 72nd bit (R161, R163). -/
  | shiftBit
  /-- The latch pulse begins (R164). -/
  | latchOn
  /-- "return latch low" (R161). -/
  | latchOff
  /-- `SENSE.PROBE <- Sample(c)` (43_scanner.md R183). -/
  | probeSample (c : Fin 6)
  /-- `if Sample(c): RAW[y][x] <- true` (43_scanner.md R182, R185). -/
  | cellSample (c : Fin 6) (y x : Fin 12)
  /-- The sample of the coarse check: the channel's probes follow if it is active (43_scanner.md R184, R185). -/
  | coarseSample (c : Fin 6)
  /-- `DebouncePass()` (44_debounce.md R202). -/
  | debouncePass
  /-- `BUSY <- 0; RUNOP <- 0`. -/
  | complete
  deriving DecidableEq, Repr

/-! ### The world outside -/

/-- The host registers (20_memory.md R75). -/
inductive HostReg where
  | cmd | result | status | sense
  deriving DecidableEq, Repr

/-- A host access that reaches CORE, at an offset from `BASE` and with a width in bytes. -/
inductive HostAccess where
  | write (offset bytes : Nat) (value : Word)
  | read (offset bytes : Nat)
  deriving DecidableEq, Repr

/-- One turn of one agent (00_scope.md R25, R26). -/
inductive Turn where
  /-- The host makes an access. -/
  | host (access : HostAccess)
  /-- The sequencer makes a bus step. -/
  | sequencer
  /-- The environment sets the levels of the input pins. -/
  | environment (levels : Inputs)
  /-- The block clock ticks (00_scope.md R17). -/
  | clock (ticks : Nat)
  deriving DecidableEq, Repr

/-- What is observable of CORE (00_scope.md R28); the level of `EVT_IRQ` is a function of the state. -/
inductive Obs where
  | addr (a : BitVec 3)
  | ser (level : Bool)
  | sck (level : Bool)
  | lat (level : Bool)
  /-- Input line `c` was sampled at this level. -/
  | sample (c : Fin 6) (level : Bool)
  /-- The host read this value. -/
  | hostRead (reg : HostReg) (value : Word)
  deriving DecidableEq, Repr

/-! ### The state -/

/-- The state of CORE, of its board and pins, and of the schedule of the agents around it. -/
structure State where
  /-- The synthesis-time parameters (00_scope.md section 3). -/
  params : Params
  /-- `RESULT` (10_state.md R31). -/
  result : Word
  /-- `STATUS.ERR` (10_state.md R32). -/
  err : ErrCode
  /-- `STATUS.FAULT` (10_state.md R32). -/
  fault : Bool
  /-- `STATUS.OVF` (10_state.md R32). -/
  ovf : Bool
  /-- `SENSE.LINES` (10_state.md R33). -/
  senseLines : BitVec 6
  /-- `SENSE.PROBE` (10_state.md R33). -/
  senseProbe : Bool
  /-- The configuration registers (10_state.md R34–R38). -/
  cfg : CfgRegs
  /-- `FB` (10_state.md R41). -/
  fb : Memory
  /-- `SNAP` (10_state.md R42). -/
  snap : Memory
  /-- `TXBUF` (10_state.md R43). -/
  txbuf : Row
  /-- `TXPOS` (10_state.md R43). -/
  txpos : Fin 73
  /-- `RAW` (10_state.md R44). -/
  raw : Grid Bool
  /-- `PREV` (10_state.md R45). -/
  prev : Grid Bool
  /-- `CNT` (10_state.md R46). -/
  cnt : Grid Byte
  /-- `STABLE` (10_state.md R47). -/
  stable : Grid Bool
  /-- `EVQ`, oldest event first (10_state.md R48). -/
  evq : List Event
  /-- `STATUS.BUSY` (10_state.md R49). -/
  busy : Bool
  /-- `STATUS.RUNOP` (10_state.md R49). -/
  runop : BitVec 4
  /-- The remaining bus steps of the long command in progress (10_state.md R49). -/
  progress : List BusStep
  /-- The wait counter of block clock cycles still to idle (10_state.md R49, 60_exceptions.md R258). -/
  waitCount : Nat
  /-- The output pins (10_state.md R50). -/
  pins : Pins
  /-- The input pins: levels of the environment, not state of CORE (10_state.md R51). -/
  inputs : Inputs
  /-- CORE is held in reset until the first block clock edge after `RST_n` returns to 1 (70_reset_and_hazards.md
  R270). -/
  resetHeld : Bool
  /-- The board: not state of CORE (10_state.md R52). -/
  board : Board
  /-- MODEL: the turns still to come; when none is left only the sequencer moves (00_scope.md R26). -/
  schedule : List Turn
  /-- MODEL: the observations so far, newest first, each with the `cycles` it was made at (00_scope.md R28). -/
  trace : List (Nat × Obs)
  /-- MODEL: block clock cycles that have at least passed (00_scope.md R27). -/
  cycles : Nat
  /-- MODEL: how many free values have been drawn. -/
  freeDraws : Nat
  deriving DecidableEq, Repr

/-- Why the machine stops with a fault. -/
inductive Fault where
  /-- Raised by a host access at an offset of 16 or more: it is outside CORE's register window and "not CORE's (the
  platform's)" (93_implementation_defined.md U11). Safe: the model says nothing about such an access. -/
  | outsideWindow (offset : Nat)
  deriving DecidableEq, Repr

/-- Why the machine refuses to go on. -/
inductive Refusal where
  /-- Raised by an arm of `exec` whose instruction has no meaning yet; no arm of this model raises it. Safe. -/
  | notModelled (mnemonic : String)
  /-- Raised by a host access in the window that is not a 32-bit access at one of the four offsets: "a model must treat
  such an access as refused" (20_memory.md R77, 93_implementation_defined.md U1). Safe. -/
  | unsupportedAccess (offset bytes : Nat)
  deriving DecidableEq, Repr

/-! ### Reset -/

/-- A grid with one value in every cell. -/
def Grid.fill {α : Type} (v : α) : Grid α := Vector.replicate 12 (Vector.replicate 12 v)

/-- The reset levels of the output pins (70_reset_and_hazards.md R272). -/
def Pins.reset (p : Params) : Pins where
  a := 0
  ser := false
  sck := false
  lat := p.latIdle

/-- Every state of CORE at its reset value (70_reset_and_hazards.md R271, R272) beside the given parameters, input
levels and board, with no turn to come and nothing observed. -/
def State.resetWith (p : Params) (i : Inputs) (b : Board) : State where
  params := p
  result := 0
  err := .ok
  fault := false
  ovf := false
  senseLines := 0
  senseProbe := false
  cfg := .reset
  fb := []
  snap := []
  txbuf := Vector.replicate 9 p.offByte
  txpos := 0
  raw := Grid.fill false
  prev := Grid.fill false
  cnt := Grid.fill 0
  stable := Grid.fill false
  evq := []
  busy := false
  runop := 0
  progress := []
  waitCount := 0
  pins := Pins.reset p
  inputs := i
  resetHeld := false
  board := b
  schedule := []
  trace := []
  cycles := 0
  freeDraws := 0

/-- The board at power-up: its register holds any value (93_implementation_defined.md U2). -/
def Board.powerUp : Board where
  shifted := Config.shiftStage 0
  latched := Vector.ofFn fun b => Config.powerUpLatched b.val

/-- The input pins right after reset: `RST_n` is released; the other levels are the environment's (U3, U4). -/
def Inputs.powerUp : Inputs where
  lines := Config.powerUpLines
  busFault := Config.powerUpBusFault
  rstN := true

/-- The machine right after reset (70_reset_and_hazards.md R271–R274), which CORE has left (R270), with the spec's
default parameters. -/
def State.reset : State :=
  { State.resetWith Params.default Inputs.powerUp Board.powerUp with freeDraws := 1 }

end Sys2Proof.Machine
end

