-- ==== Sys2Proof/Machine/Ops.lean ====
section
/-! DEFINITION. The named operations over the state: memory bytes, grids, pins, command acceptance and rejection
(30_encoding.md R94, 60_exceptions.md R245), the abort of a transport fault (60_exceptions.md R248) and reset
(70_reset_and_hazards.md R271). -/

namespace Sys2Proof.Machine

/-! ### Memory -/

/-- The byte at address `a`; an unlisted address reads as `off`. -/
def memRead (off : Byte) : Memory → Nat → Byte
  | [], _ => off
  | (k, v) :: m, a => if a = k then v else memRead off m a

/-- A cell put in its place among rising addresses. -/
def memInsert (a : Nat) (v : Byte) : Memory → Memory
  | [] => [(a, v)]
  | c :: m => if a < c.1 then (a, v) :: c :: m else c :: memInsert a v m

/-- The memory with byte `a` at `v`; a byte equal to `off` is not listed. -/
def memWrite (off : Byte) (m : Memory) (a : Nat) (v : Byte) : Memory :=
  let others := m.filter fun c => decide (c.1 ≠ a)
  if v = off then others else memInsert a v others

/-- The canonical form of a 54-byte space: addresses strictly rising and below 54, no byte equal to `off`. -/
def Memory.wf (off : Byte) (m : Memory) : Bool :=
  decide (m.Pairwise fun c d => c.1 < d.1) && m.all fun c => decide (c.1 < 54) && decide (c.2 ≠ off)

/-- The address of byte `b` of row `r` (20_memory.md R71). -/
def fbAddr (r b : Nat) : Nat := 9 * r + b

/-- `FB[r][b]`. -/
def State.fbByte (s : State) (r b : Nat) : Byte := memRead s.params.offByte s.fb (fbAddr r b)

/-- `SNAP[r][b]`. -/
def State.snapByte (s : State) (r b : Nat) : Byte := memRead s.params.offByte s.snap (fbAddr r b)

/-- `FB[r][b] <- v`. -/
def State.setFbByte (s : State) (r b : Nat) (v : Byte) : State :=
  { s with fb := memWrite s.params.offByte s.fb (fbAddr r b) v }

/-- `FB[r][b][i] <- v`. -/
def State.setFbBit (s : State) (r b i : Nat) (v : Bool) : State :=
  s.setFbByte r b (setBit (s.fbByte r b) i v)

/-- Every byte of `FB` at `OFFBYTE`: nothing is listed. -/
def State.clearFb (s : State) : State := { s with fb := [] }

/-! ### Grids -/

/-- Cell `[y][x]`. -/
def Grid.cell {α : Type} (g : Grid α) (y x : Fin 12) : α := (g[y.val])[x.val]

/-- The grid with cell `[y][x]` at `v`. -/
def Grid.setCell {α : Type} (g : Grid α) (y x : Fin 12) (v : α) : Grid α :=
  Vector.set g y.val (Vector.set g[y.val] x.val v)

/-! ### Registers -/

/-- `RESULT <- v`. -/
def State.setResult (s : State) (v : Word) : State := { s with result := v }

/-- `STATUS.ERR <- e`. -/
def State.setErr (s : State) (e : ErrCode) : State := { s with err := e }

/-! ### Pins and time -/

/-- An observation made now. -/
def State.observe (s : State) (o : Obs) : State := { s with trace := (s.cycles, o) :: s.trace }

/-- At least `n` block clock cycles pass. -/
def State.elapse (s : State) (n : Nat) : State := { s with cycles := s.cycles + n }

/-- `SetAddr(a)` without its wait (41_multiplexer.md R143). -/
def State.driveAddr (s : State) (a : BitVec 3) : State :=
  { s.observe (.addr a) with pins := { s.pins with a := a } }

/-- `SER <- v`. -/
def State.driveSer (s : State) (v : Bool) : State :=
  { s.observe (.ser v) with pins := { s.pins with ser := v } }

/-- `SCK <- v`. -/
def State.driveSck (s : State) (v : Bool) : State :=
  { s.observe (.sck v) with pins := { s.pins with sck := v } }

/-- `LAT <- v`. -/
def State.driveLat (s : State) (v : Bool) : State :=
  { s.observe (.lat v) with pins := { s.pins with lat := v } }

/-- The board takes `SER` into its shift stage: what it does at a rising edge of `SCK` (42_serializer.md R163). -/
def State.boardShift (s : State) : State :=
  { s with board := { s.board with shifted := s.board.shifted ++ [s.pins.ser] } }

/-- `LATCHED <- TXBUF`: what the board does at the leading edge of the latch pulse (42_serializer.md R164). -/
def State.boardLatch (s : State) : State :=
  { s with board := { shifted := [], latched := s.txbuf } }

/-- The board's shift stage holds any value (93_implementation_defined.md U5, U13). -/
def State.forgetShifted (s : State) : State :=
  { s with board := { s.board with shifted := Config.shiftStage s.freeDraws }, freeDraws := s.freeDraws + 1 }

/-- The wait counter is loaded. -/
def State.loadWait (s : State) (n : Nat) : State := { s with waitCount := n }

/-- `n` block clock cycles pass and the wait counter counts down, stopping at 0 (10_state.md R56). -/
def State.countDown (s : State) (n : Nat) : State :=
  { s with waitCount := s.waitCount - n, cycles := s.cycles + n }

/-- The wait counter runs out. -/
def State.waitOut (s : State) : State := s.countDown s.waitCount

/-! ### Commands -/

/-- `raise Err(code)`: `STATUS.ERR` and nothing else (60_exceptions.md R240, R245). -/
def State.reject (s : State) (e : ErrCode) : State := s.setErr e

/-- The acceptance of a decoded command (30_encoding.md R94): its checks in order, then its effect. -/
def State.accept (s : State) (cls : CmdClass) (inRange : Bool) (effect : State → State) : State :=
  if cls ≠ .always ∧ s.busy = true then s.reject .busy
  else if cls = .bus ∧ s.fault = true then s.reject .fault
  else if inRange = false then s.reject .range
  else effect (s.setErr .ok)

/-- A long command begins (30_encoding.md R94). -/
def State.startLong (s : State) (op : BitVec 4) (steps : List BusStep) : State :=
  { s with busy := true, runop := op, progress := steps }

/-- `BUSY <- 0; RUNOP <- 0`, with no bus step left. -/
def State.finishLong (s : State) : State := { s with busy := false, runop := 0, progress := [] }

/-- `STATUS.FAULT <- 1`. -/
def State.setFault (s : State) : State := { s with fault := true }

/-- `raise TransportFault` (60_exceptions.md R248): the one exception of CORE. It saves `STATUS.FAULT`, returns the
pins to their idle levels with the lines deselected, and abandons the command. There is no return from it but a
reset (R249, R255). -/
def State.transportFault (s : State) : State :=
  (((((s.forgetShifted.driveSer false).driveSck false).driveLat s.params.latIdle).driveAddr 0).setFault).finishLong

/-! ### Reset -/

/-- Every state of CORE at its reset value (70_reset_and_hazards.md R271); the parameters, the input levels and the
board keep theirs (R273), and so do the model's own fields. Whether CORE is held in reset is `RST_n`'s alone (R270). -/
def State.resetCore (s : State) : State :=
  { State.resetWith s.params s.inputs s.board with
    resetHeld := s.resetHeld, schedule := s.schedule, trace := s.trace, cycles := s.cycles, freeDraws := s.freeDraws }

/-- Reset, the pins driven to their reset levels (70_reset_and_hazards.md R271, R272). -/
def State.applyReset (s : State) : State :=
  (((s.resetCore.driveAddr 0).driveSer false).driveSck false).driveLat s.params.latIdle

/-- Whether CORE operates: `RST_n` is 1 and the first block clock edge after its return has passed
(70_reset_and_hazards.md R270). -/
def State.operating (s : State) : Bool := s.inputs.rstN && !s.resetHeld

/-- CORE is held in reset, or no longer. -/
def State.holdReset (s : State) (held : Bool) : State := { s with resetHeld := held }

/-- Whether a transfer is part-way: its row is taken, its latch pulse has not begun (42_serializer.md R161). -/
def State.midTransfer (s : State) : Bool :=
  match s.progress with
  | .shiftBit :: _ => true
  | .latchOn :: _ => true
  | _ => false

/-- `RST_n` falls (70_reset_and_hazards.md R270): the reset acts at once, in every state, and CORE is held in it from then
on; a transfer it cuts short leaves the board's shift stage at any value (93_implementation_defined.md U13). -/
def State.pinReset (s : State) : State :=
  let held := s.holdReset true
  if s.midTransfer then held.forgetShifted.applyReset else held.applyReset

end Sys2Proof.Machine
end

