-- ==== Sys2Proof/Machine/Operands.lean ====
section
/-! DEFINITION. What the operands of a command name: its class and range (30_encoding.md R91, R93, R94), the
coordinate map (40_mapper.md R120–R124), channel codes (41_multiplexer.md R146, R149), the rows CORE transmits
(42_serializer.md R160), and the bus steps of each long command (10_state.md R49). -/

namespace Sys2Proof

/-! ### Class and range -/

/-- The class column of 30_encoding.md R91. -/
def Instr.cmdClass : Instr → CmdClass
  | .nop => .always
  | .clear => .always
  | .setPixel _ _ _ => .always
  | .getPixel _ _ => .always
  | .fbRead _ _ => .always
  | .fbWrite _ _ _ => .always
  | .select _ => .bus
  | .setAddr _ => .bus
  | .sendRow _ => .bus
  | .sendBlank => .bus
  | .sample => .bus
  | .probe _ _ => .bus
  | .draw => .bus
  | .scan => .bus
  | .readGrid _ _ => .quiet
  | .popEvent => .always
  | .cfgRead _ => .always
  | .cfgWrite _ _ => .quiet
  | .clrStatus => .always
  | .softReset => .quiet

/-- Whether a command is long (30_encoding.md R91, R93). -/
def Instr.isLong : Instr → Bool
  | .nop => false
  | .clear => false
  | .setPixel _ _ _ => false
  | .getPixel _ _ => false
  | .fbRead _ _ => false
  | .fbWrite _ _ _ => false
  | .select _ => true
  | .setAddr _ => true
  | .sendRow _ => true
  | .sendBlank => true
  | .sample => false
  | .probe _ _ => true
  | .draw => true
  | .scan => true
  | .readGrid _ _ => false
  | .popEvent => false
  | .cfgRead _ => false
  | .cfgWrite _ _ => false
  | .clrStatus => false
  | .softReset => false

/-- `in_range` of 30_encoding.md R94: the operands a command accepts. -/
def Instr.inRange : Instr → Bool
  | .nop => true
  | .clear => true
  | .setPixel _ _ _ => true
  | .getPixel _ _ => true
  | .fbRead row byte => decide (row.toNat ≤ 5 ∧ byte.toNat ≤ 8)
  | .fbWrite row byte _ => decide (row.toNat ≤ 5 ∧ byte.toNat ≤ 8)
  | .select _ => true
  | .setAddr _ => true
  | .sendRow row => decide (row.toNat ≤ 5)
  | .sendBlank => true
  | .sample => true
  | .probe x y => decide (x.toNat ≤ 11 ∧ y.toNat ≤ 11)
  | .draw => true
  | .scan => true
  | .readGrid _ y => decide (y.toNat ≤ 11)
  | .popEvent => true
  | .cfgRead idx => decide (idx.toNat ≤ 5)
  | .cfgWrite idx _ => decide (idx.toNat ≤ 4)
  | .clrStatus => true
  | .softReset => true

/-! ### Colours -/

/-- A colour as plane levels (30_encoding.md R95, R102): `RGB[2]` is red, `RGB[1]` green, `RGB[0]` blue. -/
structure Colour where
  r : Bool
  g : Bool
  b : Bool
  deriving DecidableEq, Repr

/-- The colour an `RGB` field stands for. -/
def colourOf (rgb : BitVec 3) : Colour where
  r := rgb.getLsbD 2
  g := rgb.getLsbD 1
  b := rgb.getLsbD 0

/-! ### The coordinate map -/

/-- A place in the frame buffer: a row, the green byte of a byte group, and a bit (40_mapper.md R120). -/
structure MapPos where
  row : Nat
  byte : Nat
  bit : Nat
  deriving DecidableEq, Repr

/-- `map(x, y)` for `x, y ≤ 11` (40_mapper.md R120): the quadrant table. -/
def mapper (x y : Nat) : MapPos where
  row := y % 6
  byte := if x < 4 then 3 else if y < 6 then 0 else 6
  bit := if x < 4 then (if y < 6 then 4 + x else x) else x - 4

/-- `unmap(r, group, b) = (x, y)` for `r ≤ 5`, `group ∈ {0, 3, 6}`, `b ≤ 7` (40_mapper.md R123). -/
def unmapper (m : MapPos) : Nat × Nat :=
  if m.byte = 0 then (m.bit + 4, m.row)
  else if m.byte = 3 then (if 4 ≤ m.bit then (m.bit - 4, m.row) else (m.bit, m.row + 6))
  else (m.bit + 4, m.row + 6)

/-- The channel of row `y`: `y mod 6` (40_mapper.md R121). -/
def channelOf (y : Fin 12) : Fin 6 := Fin.ofNat 6 y.val

/-- The lower row of channel `c`'s row-pair `{c, c + 6}` (40_mapper.md R121). -/
def lowRow (c : Fin 6) : Fin 12 := ⟨c.val, by omega⟩

/-- The higher row of channel `c`'s row-pair. -/
def highRow (c : Fin 6) : Fin 12 := ⟨c.val + 6, by omega⟩

/-! ### Channels -/

/-- `resolve(ch)` (41_multiplexer.md R146): "Channel indices outside 0..5 resolve to 'deselected.'" -/
def resolve (p : Params) (ch : BitVec 4) : BitVec 3 :=
  if h : ch.toNat < 6 then p.chAddr[ch.toNat] else 0

/-- The channel state of an address code (41_multiplexer.md R149). -/
inductive Channel where
  | channel (c : Fin 6)
  | none
  | allHigh
  /-- A code that is no channel's; with legal parameters there is none. -/
  | unassigned
  deriving DecidableEq, Repr

/-- `chan(A)` (41_multiplexer.md R149). -/
def channelAt (p : Params) (a : BitVec 3) : Channel :=
  match (List.finRange 6).find? fun c => p.chAddr[c.val] = a with
  | some c => .channel c
  | none => if a = 0 then .none else if a = 7 then .allHigh else .unassigned

namespace Machine

/-! ### Acceptance -/

/-- A decoded command is put to CORE (30_encoding.md R94): the checks of its class and range, then its effect. -/
def State.command (s : State) (i : Instr) (effect : State → State) : State :=
  s.accept i.cmdClass i.inRange effect

/-! ### Input lines -/

/-- The level of input line `c` now. -/
def State.lineLevel (s : State) (c : Fin 6) : Bool := s.inputs.lines.getLsbD c.val

/-- What `Sample(c)` returns now (43_scanner.md R180). -/
def State.senses (s : State) (c : Fin 6) : Bool := s.params.active (s.lineLevel c)

/-- `Sample(c)` as an observation: the level is read now. -/
def State.observeSample (s : State) (c : Fin 6) : State := s.observe (.sample c (s.lineLevel c))

/-! ### Rows -/

/-- Byte `b` of a row. -/
def Row.byteAt (row : Row) (b : Nat) : Byte := if h : b < 9 then row[b] else 0

/-- Bit `j` of the stream of a row (42_serializer.md R162): byte `j div 8`, most significant bit first. -/
def Row.streamBit (row : Row) (j : Nat) : Bool := (Row.byteAt row (j / 8)).getLsbD (7 - j % 8)

/-- The 72 bits of a row in the order they leave on the serial line (42_serializer.md R162). -/
def Row.stream (row : Row) : List Bool := (List.range 72).map (Row.streamBit row)

/-- `p[b][i] <- v`. -/
def Row.withBit (row : Row) (b i : Nat) (v : Bool) : Row :=
  Vector.ofFn fun k => if k.val = b then setBit row[k.val] i v else row[k.val]

/-- The blank row: nine bytes of `OFFBYTE` (42_serializer.md R166). -/
def blankRow (p : Params) : Row := Vector.replicate 9 p.offByte

/-- The red bit of `(x, y)` at `ON`: the drive of a probe (43_scanner.md R182). -/
def probeRow (p : Params) (w : Row) (x y : Nat) : Row :=
  Row.withBit w ((mapper x y).byte + 1) (mapper x y).bit p.onLevel

/-- Every red bit of the row-pair at `ON`: the drive of the coarse check (43_scanner.md R184). -/
def coarseRow (p : Params) (w : Row) : Row :=
  Vector.ofFn fun k => if k.val = 1 ∨ k.val = 4 ∨ k.val = 7 then p.onByte else w[k.val]

/-- `FB[r]`. -/
def State.fbRow (s : State) (r : Nat) : Row := Vector.ofFn fun b => s.fbByte r b.val

/-- `SNAP[r]`. -/
def State.snapRow (s : State) (r : Nat) : Row := Vector.ofFn fun b => s.snapByte r b.val

/-- The row a `ShiftOut` transmits, as it is when the transfer begins (42_serializer.md R160). -/
def State.rowFrom (s : State) : RowSource → Row
  | .fbRow r => s.fbRow r.val
  | .snapRow c => s.snapRow c.val
  | .blank => blankRow s.params
  | .fbProbe x y => probeRow s.params (s.fbRow (y.val % 6)) x.val y.val
  | .snapProbe x y => probeRow s.params (s.snapRow (y.val % 6)) x.val y.val
  | .snapCoarse c => coarseRow s.params (s.snapRow c.val)

/-! ### The bus steps of the long commands -/

/-- `SetAddr(a); Wait(Cfg.SETTLE_US)` (41_multiplexer.md R145). -/
def addrSteps (a : BitVec 3) : List BusStep := [.setAddr a, .wait .settle]

/-- `ShiftOut(row)` (42_serializer.md R161). -/
def shiftSteps (src : RowSource) : List BusStep := [.beginShift src, .shiftBit, .latchOn, .latchOff]

/-- `DriveChannel(c, SNAP[c])` (42_serializer.md R168). -/
def driveSteps (p : Params) (cfg : CfgRegs) (c : Fin 6) : List BusStep :=
  addrSteps p.chAddr[c.val] ++ shiftSteps (.snapRow c) ++ [.wait .onTime] ++
    if cfg.antiGhost then shiftSteps .blank else []

/-- `if ProbeCell(w, x, y): RAW[y][x] <- true` (43_scanner.md R182, R185). -/
def cellSteps (c : Fin 6) (y x : Fin 12) : List BusStep :=
  shiftSteps (.snapProbe x y) ++ [.cellSample c y x]

/-- The 24 probes of channel `c`: rows `c` and `c + 6`, columns ascending (43_scanner.md R185). -/
def probeSteps (c : Fin 6) : List BusStep :=
  [lowRow c, highRow c].flatMap fun y => (List.finRange 12).flatMap fun x => cellSteps c y x

/-- `SenseChannel(c, SNAP[c])` (43_scanner.md R185); with the coarse check, its sample decides whether the probes
follow. -/
def senseSteps (cfg : CfgRegs) (c : Fin 6) : List BusStep :=
  addrSteps 0 ++
    if cfg.coarse then shiftSteps (.snapCoarse c) ++ [.coarseSample c] else probeSteps c

/-- The bus steps of SELECT and SETADDR (41_multiplexer.md R147, R148). -/
def selectSteps (a : BitVec 3) : List BusStep := addrSteps a ++ [.complete]

/-- The bus steps of SEND_ROW and SEND_BLANK (42_serializer.md R167, R171). -/
def sendSteps (src : RowSource) : List BusStep := shiftSteps src ++ [.complete]

/-- The bus steps of PROBE (43_scanner.md R183). -/
def probeCommandSteps (x y : Fin 12) : List BusStep :=
  shiftSteps (.fbProbe x y) ++ [.probeSample (channelOf y), .complete]

/-- The bus steps of DRAW (42_serializer.md R169). -/
def drawSteps (p : Params) (cfg : CfgRegs) : List BusStep :=
  [.snapshot] ++ (List.finRange 6).flatMap (driveSteps p cfg) ++ addrSteps 0 ++ [.complete]

/-- The bus steps of SCAN (43_scanner.md R186). -/
def scanSteps (p : Params) (cfg : CfgRegs) : List BusStep :=
  [.snapshotClear] ++ (List.finRange 6).flatMap (fun c => driveSteps p cfg c ++ senseSteps cfg c) ++
    [.debouncePass, .complete]

end Machine

end Sys2Proof
end

