-- ==== Sys2Proof/Machine/Flags.lean ====
section
/-! DEFINITION. The flags and register words the host reads (10_state.md R30–R39, R54) and the interrupt level
(60_exceptions.md R251). -/

namespace Sys2Proof.Machine

/-- The code of an error (60_exceptions.md R240). -/
def ErrCode.code : ErrCode → BitVec 4
  | .ok => 0
  | .illegal => 1
  | .busy => 2
  | .fault => 3
  | .range => 4

/-- `EVQ_COUNT` (10_state.md R32). -/
def State.evqCount (s : State) : Nat := s.evq.length

/-- `STATUS.EVQ_NE` (10_state.md R32). -/
def State.evqNe (s : State) : Bool := decide (s.evqCount ≠ 0)

/-- `EVT_IRQ = CTRL.IRQ_EN ∧ (EVQ_COUNT > 0)`, the level of the pin and of `STATUS.IRQ` (60_exceptions.md R251). -/
def State.evtIrq (s : State) : Bool := s.cfg.irqEn && decide (0 < s.evqCount)

/-- The word of `STATUS` (10_state.md R32), its fields from bit 31 down. -/
def State.statusWord (s : State) : Word :=
  0#8 ++ s.runop ++ BitVec.ofBool s.evtIrq ++ s.pins.a ++ BitVec.ofNat 8 s.evqCount ++ s.err.code ++
    BitVec.ofBool s.evqNe ++ BitVec.ofBool s.ovf ++ BitVec.ofBool s.fault ++ BitVec.ofBool s.busy

/-- The word of `SENSE` (10_state.md R33). -/
def State.senseWord (s : State) : Word := 0#25 ++ BitVec.ofBool s.senseProbe ++ s.senseLines

/-- The word a host read of a register returns (10_state.md R30–R33). -/
def State.regWord (s : State) : HostReg → Word
  | .cmd => 0
  | .result => s.result
  | .status => s.statusWord
  | .sense => s.senseWord

/-- `CTRL` (10_state.md R38); reserved bits read 0. -/
def CfgRegs.ctrl (c : CfgRegs) : Half :=
  0#13 ++ BitVec.ofBool c.irqEn ++ BitVec.ofBool c.coarse ++ BitVec.ofBool c.antiGhost

/-- `INFO` (10_state.md R39): fixed by the parameters. -/
def Params.info (p : Params) : Half :=
  0#5 ++ BitVec.ofBool p.inActiveLow ++ BitVec.ofBool p.latActiveHigh ++ BitVec.ofBool p.colorActiveLow ++
    BitVec.ofNat 8 p.evqDepth

/-- `Cfg[idx]`, for the six indices that hold a register (10_state.md R34–R40). -/
def State.cfgWord (s : State) (idx : BitVec 8) : Half :=
  match idx.toNat with
  | 0 => s.cfg.settleUs
  | 1 => s.cfg.latchUs
  | 2 => s.cfg.onTimeUs
  | 3 => 0#8 ++ s.cfg.debThresh
  | 4 => s.cfg.ctrl
  | _ => Params.info s.params

/-- The configuration with register `idx` written (45_system.md R222): reserved bits are ignored and a zero
`DEB_THRESH` stores 1. -/
def CfgRegs.write (c : CfgRegs) (idx : BitVec 8) (value : Half) : CfgRegs :=
  match idx.toNat with
  | 0 => { c with settleUs := value }
  | 1 => { c with latchUs := value }
  | 2 => { c with onTimeUs := value }
  | 3 => { c with debThresh := if value.extractLsb' 0 8 = 0 then 1 else value.extractLsb' 0 8 }
  | 4 => { c with antiGhost := value.getLsbD 0, coarse := value.getLsbD 1, irqEn := value.getLsbD 2 }
  | _ => c

/-- The word POP_EVENT returns for an event (44_debounce.md R205). -/
def Event.word (e : Event) : Word :=
  1#1 ++ 0#22 ++ (if e.kind = .pressed then 1#1 else 0#1) ++ BitVec.ofNat 4 e.y.val ++ BitVec.ofNat 4 e.x.val

/-- A grid row as READ_GRID returns it: bit `x` is cell `[y][x]` (44_debounce.md R206). -/
def gridRowWord (row : Vector Bool 12) : Word := (BitVec.ofFnLE fun x : Fin 12 => row[x.val]).setWidth 32

end Sys2Proof.Machine
end

