-- ==== Sys2Proof/Machine/Debounce.lean ====
section
/-! DEFINITION. The debounce engine (44_debounce.md R200–R210), its event queue, and the commands POP_EVENT and
READ_GRID. -/

namespace Sys2Proof.Machine

/-- `Push(ev)` (44_debounce.md R204): on a full queue the offered event is dropped and `OVF` set. -/
def State.pushEvent (s : State) (e : Event) : State :=
  if s.evqCount < s.params.evqDepth then { s with evq := s.evq ++ [e] } else { s with ovf := true }

/-- The match counter after one sample (44_debounce.md R201): one more on a match, saturating, else 0. -/
def nextCount (matched : Bool) (count : Byte) : Byte :=
  if matched then (if count = Config.cntMax then count else count + 1) else 0

/-- `PREV[y][x]` and `CNT[y][x]` after one sample. On a match `PREV` already holds the sample. -/
def State.countCell (s : State) (y x : Fin 12) : State :=
  { s with
    cnt := s.cnt.setCell y x (nextCount (s.raw.cell y x == s.prev.cell y x) (s.cnt.cell y x))
    prev := s.prev.setCell y x (s.raw.cell y x) }

/-- The event of a cell whose committed value becomes `r`: Pressed if true, else Released (44_debounce.md R201). -/
def commitEvent (r : Bool) (y x : Fin 12) : Event where
  kind := if r then .pressed else .released
  y := y
  x := x

/-- The commit of a cell: `STABLE[y][x] <- r` and `Push`, if the counter has reached the threshold and the committed
value differs from the sample (44_debounce.md R201). -/
def State.commitCell (s : State) (y x : Fin 12) : State :=
  if s.cfg.debThresh ≤ s.cnt.cell y x ∧ s.stable.cell y x ≠ s.raw.cell y x then
    State.pushEvent { s with stable := s.stable.setCell y x (s.raw.cell y x) } (commitEvent (s.raw.cell y x) y x)
  else s

/-- `DebounceCell(y, x)` (44_debounce.md R201). -/
def State.debounceCell (s : State) (y x : Fin 12) : State := (s.countCell y x).commitCell y x

/-- The 144 cells in row-major order (44_debounce.md R202). -/
def allCells : List (Fin 12 × Fin 12) :=
  (List.finRange 12).flatMap fun y => (List.finRange 12).map fun x => (y, x)

/-- `DebouncePass()` (44_debounce.md R202). -/
def State.debouncePass (s : State) : State := allCells.foldl (fun s c => s.debounceCell c.1 c.2) s

/-- The head of the queue is removed and its word left in `RESULT`; 0 for an empty queue (44_debounce.md R205). -/
def State.popEvent (s : State) : State :=
  match s.evq with
  | [] => s.setResult 0
  | e :: rest => { s.setResult e.word with evq := rest }

/-- POP_EVENT (44_debounce.md R205). -/
def execPopEvent (s : State) : Host.Outcome State Fault Refusal :=
  .next (s.command .popEvent fun s => s.popEvent)

/-- The bank READ_GRID reads: 0 is `RAW`, 1 is `STABLE` (44_debounce.md R206). -/
def State.bank (s : State) (bank : BitVec 1) : Grid Bool := if bank = 1 then s.stable else s.raw

/-- READ_GRID (44_debounce.md R206). -/
def execReadGrid (bank : BitVec 1) (y : BitVec 4) (s : State) : Host.Outcome State Fault Refusal :=
  .next (s.command (.readGrid bank y) fun s =>
    s.setResult (gridRowWord (s.bank bank)[(Fin.ofNat 12 y.toNat).val]))

end Sys2Proof.Machine
end

