-- ==== Sys2Proof/Machine/FrameBuffer.lean ====
section
/-! DEFINITION. The frame-buffer commands CLEAR, SET_PIXEL, GET_PIXEL, FB_READ and FB_WRITE (40_mapper.md R125–R130). -/

namespace Sys2Proof.Machine

/-- The three plane bits of a pixel are written (40_mapper.md R122, R126): green, red and blue, in this order. -/
def State.writePixel (s : State) (x y : Nat) (c : Colour) : State :=
  let m := mapper x y
  let level := fun on : Bool => if on then s.params.onLevel else !s.params.onLevel
  ((s.setFbBit m.row m.byte m.bit (level c.g)).setFbBit m.row (m.byte + 1) m.bit (level c.r)).setFbBit
    m.row (m.byte + 2) m.bit (level c.b)

/-- Whether plane `p` of a pixel is on in `FB`: 0 green, 1 red, 2 blue (40_mapper.md R122). -/
def State.planeOn (s : State) (x y p : Nat) : Bool :=
  (s.fbByte (mapper x y).row ((mapper x y).byte + p)).getLsbD (mapper x y).bit == s.params.onLevel

/-- The word GET_PIXEL returns for an in-range pixel: `{1, r, g, b}` (40_mapper.md R127). -/
def State.pixelWord (s : State) (x y : Nat) : Word :=
  0#28 ++ 1#1 ++ BitVec.ofBool (s.planeOn x y 1) ++ BitVec.ofBool (s.planeOn x y 0) ++
    BitVec.ofBool (s.planeOn x y 2)

/-- Whether a pixel operand lies on the matrix (40_mapper.md R126). -/
def onMatrix (x y : BitVec 4) : Bool := decide (x.toNat ≤ 11 ∧ y.toNat ≤ 11)

/-- CLEAR (40_mapper.md R125): every byte of `FB` is `OFFBYTE`. -/
def execClear (s : State) : Host.Outcome State Fault Refusal :=
  .next (s.command .clear fun s => s.clearFb)

/-- SET_PIXEL (40_mapper.md R126): out-of-range coordinates have no effect and are no error. -/
def execSetPixel (x y : BitVec 4) (rgb : BitVec 3) (s : State) : Host.Outcome State Fault Refusal :=
  .next (s.command (.setPixel x y rgb) fun s =>
    if onMatrix x y then s.writePixel x.toNat y.toNat (colourOf rgb) else s)

/-- GET_PIXEL (40_mapper.md R127): out of range it returns 0. -/
def execGetPixel (x y : BitVec 4) (s : State) : Host.Outcome State Fault Refusal :=
  .next (s.command (.getPixel x y) fun s =>
    if onMatrix x y then s.setResult (s.pixelWord x.toNat y.toNat) else s.setResult 0)

/-- FB_READ (40_mapper.md R128): `RESULT <- zext_32(FB[ROW][BYTE])`. -/
def execFbRead (row byte : BitVec 4) (s : State) : Host.Outcome State Fault Refusal :=
  .next (s.command (.fbRead row byte) fun s => s.setResult ((s.fbByte row.toNat byte.toNat).setWidth 32))

/-- FB_WRITE (40_mapper.md R129): `FB[ROW][BYTE] <- VAL`. -/
def execFbWrite (row byte : BitVec 4) (val : BitVec 8) (s : State) : Host.Outcome State Fault Refusal :=
  .next (s.command (.fbWrite row byte val) fun s => s.setFbByte row.toNat byte.toNat val)

end Sys2Proof.Machine
end

