-- ==== Sys2Proof/Machine/Multiplexer.lean ====
section
/-! DEFINITION. The multiplexer commands SELECT and SETADDR (41_multiplexer.md R147, R148): what their acceptance
begins. Their bus steps are performed by the sequencer. -/

namespace Sys2Proof.Machine

/-- SELECT (41_multiplexer.md R147). -/
def execSelect (ch : BitVec 4) (s : State) : Host.Outcome State Fault Refusal :=
  .next (s.command (.select ch) fun s => s.startLong 0x6 (selectSteps (resolve s.params ch)))

/-- SETADDR (41_multiplexer.md R148). -/
def execSetAddr (addr : BitVec 3) (s : State) : Host.Outcome State Fault Refusal :=
  .next (s.command (.setAddr addr) fun s => s.startLong 0x7 (selectSteps addr))

end Sys2Proof.Machine
end

