-- ==== Sys2Proof/Machine/Scanner.lean ====
section
/-! DEFINITION. The scanner commands SAMPLE, PROBE and SCAN (43_scanner.md R181, R183, R186); the bus steps of the two
long ones are performed by the sequencer. -/

namespace Sys2Proof.Machine

/-- `for c in 0..5: SENSE.LINES[c] <- Sample(c)`, all six lines read in the same step (43_scanner.md R181). -/
def State.sampleLines (s : State) : State :=
  { (List.finRange 6).foldl State.observeSample s with
    senseLines := BitVec.ofFnLE fun c : Fin 6 => s.senses c }

/-- SAMPLE (43_scanner.md R181). -/
def execSample (s : State) : Host.Outcome State Fault Refusal :=
  .next (s.command .sample fun s => s.sampleLines)

/-- PROBE (43_scanner.md R183). -/
def execProbe (x y : BitVec 4) (s : State) : Host.Outcome State Fault Refusal :=
  .next (s.command (.probe x y) fun s =>
    s.startLong 0xA (probeCommandSteps (Fin.ofNat 12 x.toNat) (Fin.ofNat 12 y.toNat)))

/-- SCAN (43_scanner.md R186). -/
def execScan (s : State) : Host.Outcome State Fault Refusal :=
  .next (s.command .scan fun s => s.startLong 0xC (scanSteps s.params s.cfg))

end Sys2Proof.Machine
end

