-- ==== Sys2Proof/Machine/Serializer.lean ====
section
/-! DEFINITION. The serializer commands SEND_ROW, SEND_BLANK and DRAW (42_serializer.md R167, R169, R171): what their
acceptance begins. Their bus steps are performed by the sequencer. -/

namespace Sys2Proof.Machine

/-- SEND_ROW (42_serializer.md R167). -/
def execSendRow (row : BitVec 4) (s : State) : Host.Outcome State Fault Refusal :=
  .next (s.command (.sendRow row) fun s => s.startLong 0x8 (sendSteps (.fbRow (Fin.ofNat 6 row.toNat))))

/-- SEND_BLANK (42_serializer.md R171). -/
def execSendBlank (s : State) : Host.Outcome State Fault Refusal :=
  .next (s.command .sendBlank fun s => s.startLong 0x8 (sendSteps .blank))

/-- DRAW (42_serializer.md R169). -/
def execDraw (s : State) : Host.Outcome State Fault Refusal :=
  .next (s.command .draw fun s => s.startLong 0xB (drawSteps s.params s.cfg))

end Sys2Proof.Machine
end

