-- ==== Sys2Proof/Machine/System.lean ====
section
/-! DEFINITION. The system commands NOP, CFG_READ, CFG_WRITE, CLR_STATUS and SOFT_RESET (45_system.md). -/

namespace Sys2Proof.Machine

/-- NOP (45_system.md R220): no effect beyond `STATUS.ERR <- 0`. -/
def execNop (s : State) : Host.Outcome State Fault Refusal :=
  .next (s.command .nop fun s => s)

/-- CFG_READ (45_system.md R221): `RESULT <- zext_32(Cfg[IDX])`. -/
def execCfgRead (idx : BitVec 8) (s : State) : Host.Outcome State Fault Refusal :=
  .next (s.command (.cfgRead idx) fun s => s.setResult ((s.cfgWord idx).setWidth 32))

/-- The configuration registers are written. -/
def State.setCfg (s : State) (c : CfgRegs) : State := { s with cfg := c }

/-- CFG_WRITE (45_system.md R222). -/
def execCfgWrite (idx : BitVec 8) (value : BitVec 16) (s : State) : Host.Outcome State Fault Refusal :=
  .next (s.command (.cfgWrite idx value) fun s => s.setCfg (s.cfg.write idx value))

/-- `STATUS.OVF <- v`. -/
def State.setOvf (s : State) (v : Bool) : State := { s with ovf := v }

/-- CLR_STATUS (45_system.md R223): `STATUS.OVF <- 0` and `STATUS.ERR <- 0`. -/
def execClrStatus (s : State) : Host.Outcome State Fault Refusal :=
  .next (s.command .clrStatus fun s => s.setOvf false)

/-- SOFT_RESET (45_system.md R224): the reset of 70_reset_and_hazards.md R271 in one step. -/
def execSoftReset (s : State) : Host.Outcome State Fault Refusal :=
  .next (s.command .softReset fun s => s.applyReset)

end Sys2Proof.Machine
end

