-- ==== Sys2Proof/Machine/Dispatch.lean ====
section
/-! DEFINITION. One arm per command: what a CMD write of the command does (30_encoding.md R94). -/

namespace Sys2Proof.Machine

def exec (i : Instr) (s : State) : Host.Outcome State Fault Refusal :=
  match i with
  | .nop => Sys2Proof.Machine.execNop s
  | .clear => Sys2Proof.Machine.execClear s
  | .setPixel x y rgb => Sys2Proof.Machine.execSetPixel x y rgb s
  | .getPixel x y => Sys2Proof.Machine.execGetPixel x y s
  | .fbRead row byte => Sys2Proof.Machine.execFbRead row byte s
  | .fbWrite row byte val => Sys2Proof.Machine.execFbWrite row byte val s
  | .select ch => Sys2Proof.Machine.execSelect ch s
  | .setAddr addr => Sys2Proof.Machine.execSetAddr addr s
  | .sendRow row => Sys2Proof.Machine.execSendRow row s
  | .sendBlank => Sys2Proof.Machine.execSendBlank s
  | .sample => Sys2Proof.Machine.execSample s
  | .probe x y => Sys2Proof.Machine.execProbe x y s
  | .draw => Sys2Proof.Machine.execDraw s
  | .scan => Sys2Proof.Machine.execScan s
  | .readGrid bank y => Sys2Proof.Machine.execReadGrid bank y s
  | .popEvent => Sys2Proof.Machine.execPopEvent s
  | .cfgRead idx => Sys2Proof.Machine.execCfgRead idx s
  | .cfgWrite idx value => Sys2Proof.Machine.execCfgWrite idx value s
  | .clrStatus => Sys2Proof.Machine.execClrStatus s
  | .softReset => Sys2Proof.Machine.execSoftReset s

end Sys2Proof.Machine
end

