-- ==== Sys2Proof/Machine/Sequencer.lean ====
section
/-! DEFINITION. The sequencer (00_scope.md R25, 10_state.md R49): one bus step of the long command in progress. A bus
step begins when the wait counter of the step before it has run out (00_scope.md R27). -/

namespace Sys2Proof.Machine

/-- `SER <- v; then SCK <- 1; then SCK <- 0`: one bit, of `T_SCK` cycles with `SCK` high for the second half
(42_serializer.md R161, R163). The board takes `SER` when `SCK` rises. -/
def State.sendBit (s : State) (v : Bool) : State :=
  (((((s.driveSer v).elapse (s.params.tSck / 2)).driveSck true).boardShift).elapse
    (s.params.tSck - s.params.tSck / 2)).driveSck false

/-- Whether the transfer is before a byte's first bit and `BUS_FAULT` reads 1 there (42_serializer.md R165). -/
def State.faultSampled (s : State) : Bool := decide (s.txpos.val % 8 = 0) && s.inputs.busFault

/-- A bit of `ShiftOut`, or the abort if the fault check before its byte fails; the step is put back while bits are
left (42_serializer.md R161). -/
def State.shiftBitStep (s : State) : State :=
  if h : s.txpos.val < 72 then
    if s.faultSampled then s.transportFault
    else
      { s.sendBit (Row.streamBit s.txbuf s.txpos.val) with
        txpos := ⟨s.txpos.val + 1, by omega⟩
        progress := if s.txpos.val + 1 < 72 then .shiftBit :: s.progress else s.progress }
  else s

/-- `TXBUF <- row; TXPOS <- 0; LAT <- LAT_IDLE` (42_serializer.md R161). -/
def State.beginShiftStep (s : State) (src : RowSource) : State :=
  State.driveLat { s with txbuf := s.rowFrom src, txpos := 0 } s.params.latIdle

/-- The hold of the latch pulse in block clock cycles (42_serializer.md R164). -/
def State.latchHold (s : State) : Nat := max (s.cfg.latchUs.toNat * s.params.us) 1

/-- `SER <- 0; LAT <- LAT_PULSE`: the latch pulse begins and the board latches the row (42_serializer.md R161, R164). -/
def State.latchOnStep (s : State) : State :=
  (((s.driveSer false).driveLat s.params.latPulse).boardLatch).loadWait s.latchHold

/-- The configured time of a `Wait`, in block clock cycles (41_multiplexer.md R144). -/
def State.waitTime (s : State) : WaitKind → Nat
  | .settle => s.cfg.settleUs.toNat * s.params.us
  | .onTime => s.cfg.onTimeUs.toNat * s.params.us

/-- `SNAP <- FB` (42_serializer.md R169). -/
def State.takeSnapshot (s : State) : State := { s with snap := s.fb }

/-- `RAW <- all false` (43_scanner.md R186). -/
def State.clearRaw (s : State) : State := { s with raw := Grid.fill false }

/-- `SENSE.PROBE <- Sample(c)` (43_scanner.md R183). -/
def State.probeSampleStep (s : State) (c : Fin 6) : State :=
  { s.observeSample c with senseProbe := s.senses c }

/-- `if Sample(c): RAW[y][x] <- true` (43_scanner.md R185). -/
def State.cellSampleStep (s : State) (c : Fin 6) (y x : Fin 12) : State :=
  if s.senses c then { s.observeSample c with raw := s.raw.setCell y x true } else s.observeSample c

/-- The coarse sample: if it is active the channel's 24 probes are next, else none of them is made
(43_scanner.md R184, R185). -/
def State.coarseSampleStep (s : State) (c : Fin 6) : State :=
  if s.senses c then { s.observeSample c with progress := probeSteps c ++ s.progress } else s.observeSample c

/-- What one bus step does, in a state whose progress is what remains after it. -/
def State.perform (s : State) : BusStep → State
  | .setAddr a => s.driveAddr a
  | .wait k => s.loadWait (s.waitTime k)
  | .snapshot => s.takeSnapshot
  | .snapshotClear => s.takeSnapshot.clearRaw
  | .beginShift src => s.beginShiftStep src
  | .shiftBit => s.shiftBitStep
  | .latchOn => s.latchOnStep
  | .latchOff => s.driveLat s.params.latIdle
  | .probeSample c => s.probeSampleStep c
  | .cellSample c y x => s.cellSampleStep c y x
  | .coarseSample c => s.coarseSampleStep c
  | .debouncePass => s.debouncePass.elapse s.params.tDeb
  | .complete => s.finishLong

/-- The remaining bus steps are replaced. -/
def State.setProgress (s : State) (steps : List BusStep) : State := { s with progress := steps }

/-- One sequencer step: the wait of the step before has passed, and the next bus step is performed; without a long
command in progress nothing happens (00_scope.md R25). -/
def sequencerStep (s : State) : State :=
  match s.progress with
  | [] => s
  | b :: rest => (s.waitOut.setProgress rest).perform b

end Sys2Proof.Machine
end

