-- ==== Sys2Proof/Machine/Turns.lean ====
section
/-! DEFINITION. The turns of the agents around CORE (00_scope.md R25, R26): host accesses of the register window
(20_memory.md R75, R77, R79), the sequencer, the input pins (10_state.md R51, 70_reset_and_hazards.md R270) and the
block clock. -/

namespace Sys2Proof.Machine

/-- What a host access asks of CORE. -/
inductive HostRequest where
  /-- A command word is written to CMD. -/
  | command (w : Word)
  /-- A register is read. -/
  | read (r : HostReg)
  /-- A read-only register is written: ignored (20_memory.md R79). -/
  | ignored
  /-- The access lies outside the 16-byte window. -/
  | outside (offset : Nat)
  /-- The access is in the window and no 32-bit access at one of its four offsets. -/
  | unsupported (offset bytes : Nat)
  deriving DecidableEq, Repr

/-- The register at an offset of the window (20_memory.md R75). -/
def regAt (offset : Nat) : Option HostReg :=
  match offset with
  | 0 => some .cmd
  | 4 => some .result
  | 8 => some .status
  | 12 => some .sense
  | _ => none

/-- The bus address of an offset of the window (20_memory.md R75). -/
def busAddress (p : Params) (offset : Nat) : Nat := p.base + offset

/-- The request a host access makes: CORE accepts only 32-bit accesses at the four word-aligned offsets
(20_memory.md R77). -/
def hostRequest : HostAccess → HostRequest
  | .write offset bytes value =>
    if 16 ≤ offset then .outside offset
    else match regAt offset with
      | some .cmd => if bytes = 4 then .command value else .unsupported offset bytes
      | some _ => if bytes = 4 then .ignored else .unsupported offset bytes
      | none => .unsupported offset bytes
  | .read offset bytes =>
    if 16 ≤ offset then .outside offset
    else match regAt offset with
      | some r => if bytes = 4 then .read r else .unsupported offset bytes
      | none => .unsupported offset bytes

/-- The host reads a register: no side effect on CORE (20_memory.md R79). -/
def State.hostRead (s : State) (r : HostReg) : State := s.observe (.hostRead r (s.regWord r))

/-- The sequencer's turn; it does nothing while CORE is held in reset (70_reset_and_hazards.md R270). -/
def State.sequencerTurn (s : State) : State := if s.operating then sequencerStep s else s

/-- The environment sets the input levels. `RST_n = 0` resets CORE at once and holds it in reset; `RST_n = 1` alone does
not release it (70_reset_and_hazards.md R270). -/
def State.environmentTurn (s : State) (levels : Inputs) : State :=
  let s' := { s with inputs := levels }
  if levels.rstN then s' else s'.pinReset

/-- The block clock ticks `n` times. On the first edge with `RST_n = 1` CORE leaves reset (70_reset_and_hazards.md
R270). -/
def State.clockTurn (s : State) (n : Nat) : State :=
  if 0 < n ∧ s.inputs.rstN = true then (s.countDown n).holdReset false else s.countDown n

/-- The turns still to come. -/
def State.setSchedule (s : State) (turns : List Turn) : State := { s with schedule := turns }

end Sys2Proof.Machine
end

