-- ==== Sys2Proof/Machine/Step.lean ====
section
/-! DEFINITION. One step of the machine: one turn of one agent (00_scope.md R25, R26). -/

namespace Sys2Proof.Machine

/-- A command word is written to CMD (30_encoding.md R94): an illegal word is `ERR_ILLEGAL`, any other is its
command. While CORE is held in reset the write has no effect (70_reset_and_hazards.md R270). -/
def commandWrite (w : Word) (s : State) : Host.Outcome State Fault Refusal :=
  if s.operating then
    match decode w with
    | .ok i => exec i s
    | .error _ => .next (s.reject .illegal)
  else .next s

/-- The host's turn. -/
def hostTurn (access : HostAccess) (s : State) : Host.Outcome State Fault Refusal :=
  match hostRequest access with
  | .command w => commandWrite w s
  | .read r => .next (s.hostRead r)
  | .ignored => .next s
  | .outside offset => .fault (.outsideWindow offset)
  | .unsupported offset bytes => .refused (.unsupportedAccess offset bytes)

/-- One turn of one agent. -/
def takeTurn (t : Turn) (s : State) : Host.Outcome State Fault Refusal :=
  match t with
  | .host access => hostTurn access s
  | .sequencer => .next s.sequencerTurn
  | .environment levels => .next (s.environmentTurn levels)
  | .clock ticks => .next (s.clockTurn ticks)

/-- One step: the next turn of the schedule is taken. With none left the host and the environment are silent and only
the sequencer moves; an idle CORE then stays as it is (60_exceptions.md R262). -/
def step (s : State) : Host.Outcome State Fault Refusal :=
  match s.schedule with
  | [] => .next s.sequencerTurn
  | t :: rest => takeTurn t (s.setSchedule rest)

/-- The host's next access is a CMD write of the given word, with CORE out of reset: the very next step runs it. -/
def State.withFetchWord (s : State) (nbits w : Nat) : State :=
  { s with
    schedule := .host (.write 0 4 (BitVec.ofNat 32 (w % 2 ^ nbits))) :: s.schedule
    inputs := { s.inputs with rstN := true }
    resetHeld := false }

end Sys2Proof.Machine
end

