-- ==== Sys2Proof/Machine/Pseudo.lean ====
section
/-! DEFINITION. The pseudo-instructions (30_encoding.md R109–R115): host-software expansions into commands and host
accesses; CORE never sees them. -/

namespace Sys2Proof.Machine

/-- The host parameters of glyph drawing (00_scope.md R21): `GLYPHS` row-major, `GLYPH_W` and `GLYPH_H`. -/
structure Glyphs where
  bitmaps : List (List Bool)
  width : Nat := 5
  height : Nat := 5
  deriving DecidableEq, Repr

/-- A host write of a command's word to CMD. -/
def issue (i : Instr) : HostAccess := .write 0 4 (encode i)

/-- `DESELECT` (30_encoding.md R109). -/
def deselect : List Instr := [.select 15]

/-- `emit SET_PIXEL x, y, color` if the pixel is on the matrix (30_encoding.md R112). -/
def emitPixel (x y : Nat) (colour : BitVec 3) : List Instr :=
  if x ≤ 11 ∧ y ≤ 11 then [.setPixel (.ofNat 4 x) (.ofNat 4 y) colour] else []

/-- The values `a..b`, inclusive and ascending; none if `a > b`. -/
def inclusive (a b : Nat) : List Nat := (List.range (b + 1 - a)).map (a + ·)

/-- `DRAW_RECT x1, y1, x2, y2, color` (30_encoding.md R112). -/
def drawRect (x1 y1 x2 y2 : Nat) (colour : BitVec 3) : List Instr :=
  (inclusive y1 y2).flatMap fun y => (inclusive x1 x2).flatMap fun x => emitPixel x y colour

/-- `DRAW_GLYPH bitmap, w, h, ox, oy, color` (30_encoding.md R113): false bits emit nothing. -/
def drawGlyph (bitmap : List Bool) (w h ox oy : Nat) (colour : BitVec 3) : List Instr :=
  (List.range h).flatMap fun gy => (List.range w).flatMap fun gx =>
    if bitmap.getD (gy * w + gx) false then emitPixel (ox + gx) (oy + gy) colour else []

/-- The glyph with an index, drawn; an undefined index draws nothing (40_mapper.md R130). -/
def drawIndexed (g : Glyphs) (index ox oy : Nat) (colour : BitVec 3) : List Instr :=
  match g.bitmaps[index]? with
  | some bitmap => drawGlyph bitmap g.width g.height ox oy colour
  | none => []

/-- `DRAW_DIGIT n, ox, oy, color` (30_encoding.md R114). -/
def drawDigit (g : Glyphs) (n ox oy : Nat) (colour : BitVec 3) : List Instr :=
  drawIndexed g (n % 10) ox oy colour

/-- The glyph index of a character (30_encoding.md R115): digits, then capital letters. -/
def glyphIndex (ch : Char) : Option Nat :=
  if 48 ≤ ch.toNat ∧ ch.toNat ≤ 57 then some (ch.toNat - 48)
  else if 65 ≤ ch.toNat ∧ ch.toNat ≤ 90 then some (ch.toNat - 65 + 10)
  else none

/-- `DRAW_CHAR ch, ox, oy, color` (30_encoding.md R115). -/
def drawChar (g : Glyphs) (ch : Char) (ox oy : Nat) (colour : BitVec 3) : List Instr :=
  match glyphIndex ch with
  | some index => drawIndexed g index ox oy colour
  | none => []

/-- `READ_BUTTONS` (30_encoding.md R111): `READ_GRID RAW, y` for each row, `RESULT` read after each. -/
def readButtons : List HostAccess :=
  (List.range 12).flatMap fun y => [issue (.readGrid 0 (.ofNat 4 y)), .read 4 4]

/-- Whether a `STATUS` word ends `WAIT_IDLE`: `STATUS.BUSY = 0` (30_encoding.md R110). -/
def statusIdle (w : Word) : Bool := !w.getLsbD 0

/-- `WAIT_IDLE` (30_encoding.md R110) with the sequencer's turns between the host's reads of `STATUS`: the state in
which a read first shows `BUSY = 0`, if one of the first `polls` reads does. -/
def waitIdle : Nat → State → Option State
  | 0, _ => none
  | polls + 1, s =>
    if statusIdle s.statusWord then some (s.hostRead .status)
    else waitIdle polls (s.hostRead .status).sequencerTurn

end Sys2Proof.Machine
end

