-- ==== Sys2Proof/Machine/Assembler.lean ====
section
/-! DEFINITION. The assembler's syntax (30_encoding.md R106–R108): one command per line, `MNEMONIC operand, operand`,
decimal or `0x` numbers, operand names, comments after `;`. It is host software; CORE sees only the words. -/

namespace Sys2Proof.Machine

/-- The mnemonics as they are written (30_encoding.md R107). -/
def mnemonicNames : List (String × Mnemonic) :=
  [("NOP", .nop), ("CLEAR", .clear), ("SET_PIXEL", .setPixel), ("GET_PIXEL", .getPixel), ("FB_READ", .fbRead),
   ("FB_WRITE", .fbWrite), ("SELECT", .select), ("SETADDR", .setAddr), ("SEND_ROW", .sendRow),
   ("SEND_BLANK", .sendBlank), ("SAMPLE", .sample), ("PROBE", .probe), ("DRAW", .draw), ("SCAN", .scan),
   ("READ_GRID", .readGrid), ("POP_EVENT", .popEvent), ("CFG_READ", .cfgRead), ("CFG_WRITE", .cfgWrite),
   ("CLR_STATUS", .clrStatus), ("SOFT_RESET", .softReset)]

/-- The colour names (30_encoding.md R108); six of them are general knowledge (93_implementation_defined.md G1). -/
def colourNames : List (String × Nat) :=
  [("BLACK", 0), ("BLUE", 1), ("GREEN", 2), ("CYAN", 3), ("RED", 4), ("MAGENTA", 5), ("YELLOW", 6), ("WHITE", 7)]

/-- The bank names (30_encoding.md R106). -/
def bankNames : List (String × Nat) := [("RAW", 0), ("STABLE", 1)]

/-- The configuration names (30_encoding.md R106). -/
def cfgNames : List (String × Nat) :=
  [("SETTLE_US", 0), ("LATCH_US", 1), ("ONTIME_US", 2), ("DEB_THRESH", 3), ("CTRL", 4), ("INFO", 5)]

/-- What a name stands for in a table of names. -/
def lookupName {α : Type} (names : List (String × α)) (word : List Char) : Option α :=
  (names.find? fun e => e.1.toList = word).map Prod.snd

/-- The value of a digit of base 16 or less. -/
def digitValue (base : Nat) (ch : Char) : Option Nat :=
  let v := if 48 ≤ ch.toNat ∧ ch.toNat ≤ 57 then ch.toNat - 48
    else if 65 ≤ ch.toNat ∧ ch.toNat ≤ 70 then ch.toNat - 55
    else if 97 ≤ ch.toNat ∧ ch.toNat ≤ 102 then ch.toNat - 87
    else base
  if v < base then some v else none

/-- The value of a string of digits, most significant first, on top of the value read so far. -/
def digitsValue (base : Nat) : List Char → Nat → Option Nat
  | [], acc => some acc
  | ch :: rest, acc => (digitValue base ch).bind fun d => digitsValue base rest (base * acc + d)

/-- A number: `0x` and hexadecimal digits, or decimal digits (30_encoding.md R106). -/
def numberValue : List Char → Option Nat
  | [] => none
  | '0' :: 'x' :: digit :: rest => digitsValue 16 (digit :: rest) 0
  | ch :: rest => digitsValue 10 (ch :: rest) 0

/-- The names an operand of a mnemonic may have, by its place (30_encoding.md R106, R107). -/
def operandNames : Mnemonic → Nat → List (String × Nat)
  | .setPixel, 2 => colourNames
  | .readGrid, 0 => bankNames
  | .cfgRead, 0 => cfgNames
  | .cfgWrite, 0 => cfgNames
  | _, _ => []

/-- An operand: a name of its place, or a number. -/
def operandValue (m : Mnemonic) (place : Nat) (word : List Char) : Option Nat :=
  match lookupName (operandNames m place) word with
  | some v => some v
  | none => numberValue word

/-- The operands of a line, from place `place` on; `none` if one is no operand. -/
def operandValues (m : Mnemonic) : Nat → List (List Char) → Option (List Nat)
  | _, [] => some []
  | place, w :: ws =>
    (operandValue m place w).bind fun v => (operandValues m (place + 1) ws).map (v :: ·)

/-- Spaces and tabs. -/
def isBlank (ch : Char) : Bool := ch = ' ' || ch = '\t'

/-- A text without blanks at its ends. -/
def trimBlanks (text : List Char) : List Char :=
  ((text.dropWhile isBlank).reverse.dropWhile isBlank).reverse

/-- A text cut at its commas, `word` being what was read since the last one. -/
def cutAtCommas : List Char → List Char → List (List Char)
  | [], word => [word.reverse]
  | ',' :: rest, word => word.reverse :: cutAtCommas rest []
  | ch :: rest, word => cutAtCommas rest (ch :: word)

/-- The operand texts of the rest of a line: none for a blank rest. -/
def operandTexts (rest : List Char) : List (List Char) :=
  match trimBlanks rest with
  | [] => []
  | text => (cutAtCommas text []).map trimBlanks

/-- The commands of one line: none for a blank line or a comment, `none` for an assembly error
(30_encoding.md R106, R107). `DESELECT` is the pseudo-instruction of R109. -/
def assembleLine (line : List Char) : Option (List Instr) :=
  let text := trimBlanks (line.takeWhile (· ≠ ';'))
  let name := text.takeWhile fun ch => !isBlank ch
  let rest := text.dropWhile fun ch => !isBlank ch
  if text = [] then some []
  else if name = "DESELECT".toList ∧ operandTexts rest = [] then some deselect
  else
    (lookupName mnemonicNames name).bind fun m =>
      (operandValues m 0 (operandTexts rest)).bind fun vs =>
        (AsmTerm.toInstr { mnemonic := m, operands := vs }).map ([·])

/-- The words of a line. -/
def assembleWords (line : List Char) : Option (List Word) := (assembleLine line).map (·.map encode)

end Sys2Proof.Machine
end

