-- ==== Sys2Proof/Machine/Board.lean ====
section
/-! DEFINITION. What the board displays (10_state.md R52), "used only to state what is displayed". -/

namespace Sys2Proof.Machine

/-- Whether plane `p` (0 green, 1 red, 2 blue) of pixel `(x, y)` is lit: its channel is selected and its latched bit
is `ON` (10_state.md R52). While the lines drive `111` what is lit is left open (93_implementation_defined.md U6). -/
def State.lit (s : State) (x y p : Nat) : Bool :=
  if s.pins.a = 7 then Config.litAllHigh x y p s.board.latched.toList
  else
    (s.pins.a == s.params.chAddr[(Fin.ofNat 6 (mapper x y).row).val]) &&
      ((Row.byteAt s.board.latched ((mapper x y).byte + p)).getLsbD (mapper x y).bit == s.params.onLevel)

end Sys2Proof.Machine
end

