-- ==== Sys2Proof/Safety.lean ====
section
/-! DEFINITION. What holds of CORE between any two steps, in the terms the statements use. -/

namespace Sys2Proof.Machine

/-- Where a transfer is between two bus steps (42_serializer.md R161). -/
inductive TransferPhase where
  /-- No transfer is under way. -/
  | idle
  /-- Its bits are being shifted. -/
  | shifting
  /-- All bits have left; the latch pulse is next. -/
  | latching
  /-- The latch pulse is on. -/
  | pulsing
  deriving DecidableEq, Repr

/-- Whether bus steps follow one another as the pseudocode of a long command orders them: a transfer is begun, shifted,
latched and ended with nothing between, every `SetAddr` is followed at once by the settle wait (41_multiplexer.md
R145), and the completion is last. -/
def sequenced : TransferPhase → List BusStep → Bool
  | .idle, .beginShift _ :: rest => sequenced .shifting rest
  | .shifting, .shiftBit :: rest => sequenced .latching rest
  | .latching, .latchOn :: rest => sequenced .pulsing rest
  | .pulsing, .latchOff :: rest => sequenced .idle rest
  | .idle, .setAddr _ :: .wait .settle :: rest => sequenced .idle rest
  | .idle, .wait _ :: rest => sequenced .idle rest
  | .idle, .snapshot :: rest => sequenced .idle rest
  | .idle, .snapshotClear :: rest => sequenced .idle rest
  | .idle, .probeSample _ :: rest => sequenced .idle rest
  | .idle, .cellSample _ _ _ :: rest => sequenced .idle rest
  | .idle, .coarseSample _ :: rest => sequenced .idle rest
  | .idle, .debouncePass :: rest => sequenced .idle rest
  | .idle, [.complete] => true
  | _, _ => false

/-- The levels of `SER` and `LAT` and the bit position that go with a phase (10_state.md R50, 42_serializer.md R164:
"The pulse is the only time `LAT` leaves `LAT_IDLE`"). -/
def State.phasePins (s : State) : TransferPhase → Prop
  | .idle => s.pins.ser = false ∧ s.pins.lat = s.params.latIdle
  | .shifting => s.txpos.val < 72 ∧ s.pins.lat = s.params.latIdle
  | .latching => s.txpos.val = 72 ∧ s.pins.lat = s.params.latIdle
  | .pulsing => s.pins.ser = false ∧ s.pins.lat = s.params.latPulse

/-- The pins `SER`, `SCK` and `LAT` at their idle levels (10_state.md R50). -/
def State.busIdle (s : State) : Prop :=
  s.pins.ser = false ∧ s.pins.sck = false ∧ s.pins.lat = s.params.latIdle

/-- What every step keeps. -/
structure State.Inv (s : State) : Prop where
  /-- "`BUSY` is 1 exactly while the progress is non-empty" (10_state.md R49), and the remaining bus steps and the
  pins go together. -/
  running : s.busy = true → ∃ ph, sequenced ph s.progress = true ∧ s.phasePins ph
  /-- Idle: nothing is left to do, `RUNOP` is 0, no wait is counted and the bus is idle. -/
  resting : s.busy = false →
    s.progress = [] ∧ s.runop = 0 ∧ s.waitCount = 0 ∧ s.pins.ser = false ∧ s.pins.lat = s.params.latIdle
  /-- `SCK` is 1 only within a bit. -/
  clockLow : s.pins.sck = false
  /-- A transport fault leaves no command in progress, and none that uses the bus is accepted after it
  (60_exceptions.md R248, R249). -/
  faultIdle : s.fault = true → s.busy = false
  /-- The queue holds at most `EVQ_DEPTH` events (10_state.md R48). -/
  queueBound : s.evq.length ≤ s.params.evqDepth
  /-- `DEB_THRESH` is in 1..255 (10_state.md R37). -/
  threshold : s.cfg.debThresh ≠ 0
  /-- The frame buffer and the snapshot keep their canonical form. -/
  fbForm : s.fb.wf s.params.offByte = true
  snapForm : s.snap.wf s.params.offByte = true
  /-- While `RST_n` is 0 CORE is held in reset (70_reset_and_hazards.md R270). -/
  heldLow : s.inputs.rstN = false → s.resetHeld = true
  /-- While CORE is held in reset every state of it has its reset value (70_reset_and_hazards.md R270–R272). -/
  heldReset : s.resetHeld = true → s.resetCore = s

/-! ### Runs of the sequencer -/

/-- `n` sequencer steps with no other agent's turn between. -/
def runSequencer (n : Nat) (s : State) : State := sequencerStep^[n] s

/-- `n` sequencer steps, the environment setting the input levels `env k` before step `k`. -/
def runWithInputs (env : Nat → Inputs) : Nat → State → State
  | 0, s => s
  | n + 1, s => sequencerStep { runWithInputs env n s with inputs := env n }

/-- The pin events of one bit (42_serializer.md R161). -/
def bitEvents (b : Bool) : List Obs := [.ser b, .sck true, .sck false]

/-- The pin events of one `ShiftOut`, in order (42_serializer.md R161, R162). -/
def shiftEvents (p : Params) (row : Row) : List Obs :=
  [.lat p.latIdle] ++ (Row.stream row).flatMap bitEvents ++ [.ser false, .lat p.latPulse, .lat p.latIdle]

/-- The pin events of one `DriveChannel`, in order (42_serializer.md R168). -/
def driveEvents (p : Params) (cfg : CfgRegs) (c : Fin 6) (row : Row) : List Obs :=
  [.addr p.chAddr[c.val]] ++ shiftEvents p row ++ if cfg.antiGhost then shiftEvents p (blankRow p) else []

/-- The pin events of a DRAW of the given rows, in order (42_serializer.md R169). -/
def drawEvents (p : Params) (cfg : CfgRegs) (rows : Fin 6 → Row) : List Obs :=
  ((List.finRange 6).flatMap fun c => driveEvents p cfg c (rows c)) ++ [.addr 0]

/-- The observations of a state, newest first, without their times. -/
def State.observations (s : State) : List Obs := s.trace.map Prod.snd

/-- `S = SETTLE_US × US` (70_reset_and_hazards.md section 3). -/
def State.settleTime (s : State) : Nat := s.cfg.settleUs.toNat * s.params.us

/-- `O = ONTIME_US × US`. -/
def State.onTime (s : State) : Nat := s.cfg.onTimeUs.toNat * s.params.us

/-- `T_shift = 72 × T_SCK + L` (70_reset_and_hazards.md R290). -/
def State.shiftTime (s : State) : Nat := 72 * s.params.tSck + max (s.cfg.latchUs.toNat * s.params.us) 1

/-! ### The steps of a SCAN

The sequencer steps of a SCAN are numbered from 0, and channel `c` begins at step `channelStart c`. What counts as one
step is the model's choice (log entries 6 to 9, 18 and 19), so these numbers are too. -/

/-- The step at which a channel's first sensing transfer begins, when the channel begins at step `start`. -/
def senseStart (cfg : CfgRegs) (start : Nat) : Nat := start + 80 + if cfg.antiGhost then 75 else 0

/-- The step at which a channel's probes begin, if they are made: after the coarse check, when it is enabled. -/
def probeStart (cfg : CfgRegs) (start : Nat) : Nat := senseStart cfg start + if cfg.coarse then 76 else 0

/-- `go` of 43_scanner.md R185: whether the probes of channel `c` are made, the environment setting the levels `env k`
before step `k`. -/
def channelGo (p : Params) (cfg : CfgRegs) (env : Nat → Inputs) (start c : Nat) : Bool :=
  !cfg.coarse || p.active ((env (senseStart cfg start + 75)).lines.getLsbD c)

/-- The step at which channel `c` begins. -/
def channelStart (p : Params) (cfg : CfgRegs) (env : Nat → Inputs) : Nat → Nat
  | 0 => 1
  | c + 1 =>
    let start := channelStart p cfg env c
    probeStart cfg start + if channelGo p cfg env start c then 24 * 76 else 0

/-- The cycles of channel `c` of a SCAN (70_reset_and_hazards.md R293), `go` saying whether its probes are made. -/
def State.channelTime (s : State) (go : Bool) : Nat :=
  2 * s.settleTime + s.shiftTime + s.onTime + (if s.cfg.antiGhost then s.shiftTime else 0) +
    (if s.cfg.coarse then s.shiftTime else 0) + if go then 24 * s.shiftTime else 0

/-- The events of the sensing of channel `c`, in order (43_scanner.md R182, R184, R185), when the channel begins at step
`start` of a SCAN and its snapshot row is `row`: the deselect, the coarse check if it is enabled, and the 24 probes if
they are made, row `c` before row `c + 6` and columns ascending, each transfer with the sample that follows it. -/
def senseEvents (p : Params) (cfg : CfgRegs) (env : Nat → Inputs) (start : Nat) (c : Fin 6) (row : Row) : List Obs :=
  let sampled := fun k : Nat => Obs.sample c ((env k).lines.getLsbD c.val)
  [.addr 0] ++
    (if cfg.coarse then shiftEvents p (coarseRow p row) ++ [sampled (senseStart cfg start + 75)] else []) ++
    if channelGo p cfg env start c.val then
      (List.range 24).flatMap fun k =>
        shiftEvents p (probeRow p row (k % 12) (c.val + 6 * (k / 12))) ++ [sampled (probeStart cfg start + 76 * k + 75)]
    else []

/-- The events of a SCAN of the given rows, in order (43_scanner.md R186). -/
def scanEvents (p : Params) (cfg : CfgRegs) (env : Nat → Inputs) (rows : Fin 6 → Row) : List Obs :=
  (List.finRange 6).flatMap fun c =>
    driveEvents p cfg c (rows c) ++ senseEvents p cfg env (channelStart p cfg env c.val) c (rows c)

/-- Whether a bus step or its source reads `FB` (42_serializer.md R160, R169; 43_scanner.md R183, R186). -/
def readsFb : BusStep → Bool
  | .snapshot => true
  | .snapshotClear => true
  | .beginShift (.fbRow _) => true
  | .beginShift (.fbProbe _ _) => true
  | _ => false

/-- The event of a cell in a debounce pass, if it commits (44_debounce.md R201). -/
def State.cellEvent (s : State) (c : Fin 12 × Fin 12) : Option Event :=
  if s.cfg.debThresh ≤ nextCount (s.raw.cell c.1 c.2 == s.prev.cell c.1 c.2) (s.cnt.cell c.1 c.2) ∧
      s.stable.cell c.1 c.2 ≠ s.raw.cell c.1 c.2 then
    some (commitEvent (s.raw.cell c.1 c.2) c.1 c.2)
  else none

/-- The events of a debounce pass in row-major order (44_debounce.md R202). -/
def State.passEvents (s : State) : List Event := allCells.filterMap s.cellEvent

/-- Whether an event is one of cell `[y][x]`. -/
def Event.isOf (e : Event) (y x : Fin 12) : Bool := decide (e.y = y ∧ e.x = x)

/-- The state in which debounce pass `n` of a sequence begins, the raw grid of pass `k` being `grids k`. -/
def beforePass (grids : Nat → Grid Bool) (s : State) : Nat → State
  | 0 => { s with raw := grids 0 }
  | n + 1 => { (beforePass grids s n).debouncePass with raw := grids (n + 1) }

end Sys2Proof.Machine
end

