-- ==== Sys2Proof/Certificates/Slice0/Obligations.lean ====
section
/-! DEFINITION. The statements about CORE for the provers. OBLIGATIONS.json says what each one states and which rules
of spec/ it formalises. -/

open Sys2Proof Sys2Proof.Machine

/-! ### Encoding -/

/-- Decoding the word of any command gives the command back: no field is dropped. -/
def Obligations.DecodeAfterEncode : Prop :=
  ∀ i : Instr, decode (encode i) = .ok i

/-- A word that decodes is the word of the command it decodes to: no bit of it is ignored. -/
def Obligations.EncodeAfterDecode : Prop :=
  ∀ (w : Word) (i : Instr), decode w = .ok i → encode i = w

/-- A word decodes exactly when a row of the opcode table matches it, to a command of that row's mnemonic, and at most
one row matches a word. -/
def Obligations.DecodeFollowsTheOpcodeTable : Prop :=
  ∀ w : Word,
    ((∃ i, decode w = .ok i) ↔ ∃ r ∈ opcodeRows, r.matchesWord w = true) ∧
    (∀ i, decode w = .ok i → ∀ r ∈ opcodeRows, r.matchesWord w = true → r.mnemonic = i.mnemonic) ∧
    (∀ r ∈ opcodeRows, ∀ r' ∈ opcodeRows, r.matchesWord w = true → r'.matchesWord w = true → r = r')

/-- Words written out from the formats of 30_encoding.md decode to the commands they stand for. -/
def Obligations.WrittenWordsDecode : Prop :=
  decode 0b00010000000000000000000000000000#32 = .ok .clear ∧
  decode 0b00100000000000000000010000110101#32 = .ok (.setPixel 5 3 4) ∧
  decode 0b01010000000000001010010101011000#32 = .ok (.fbWrite 5 8 0xA5) ∧
  decode 0b01100000000000000000000000000010#32 = .ok (.select 2) ∧
  decode 0b10000000000000000000000000010000#32 = .ok .sendBlank ∧
  decode 0b10100000000000000000000000110101#32 = .ok (.probe 5 3) ∧
  decode 0b11010000000000000000000100001011#32 = .ok (.readGrid 1 11) ∧
  decode 0b11110001000100100011010000000011#32 = .ok (.cfgWrite 3 0x1234) ∧
  decode 0b10000000000000000000000000010001#32 = .error .blankWithRow ∧
  decode 0b11110100000000000000000000000000#32 = .error .unassignedSub

/-- An assembly term stands for the command whose word 30_encoding.md R107 gives its syntax, if each operand is within
the bound given there, and for none otherwise; `wellFormed` is exactly this check. -/
def Obligations.AssemblyTermsFitOrAreRefused : Prop :=
  ∀ t : AsmTerm,
    (t.wellFormed = false → t.toInstr = none) ∧
    (t.wellFormed = true → ∃ i, t.toInstr = some i ∧ i.mnemonic = t.mnemonic) ∧
    t.toInstr.map encode = match t.mnemonic, t.operands with
      | .nop, [] => some 0x00000000
      | .clear, [] => some 0x10000000
      | .setPixel, [x, y, colour] =>
        if x ≤ 15 ∧ y ≤ 15 ∧ colour ≤ 7 then
          some (0x20000000 ||| BitVec.ofNat 32 colour <<< 8 ||| BitVec.ofNat 32 y <<< 4 ||| BitVec.ofNat 32 x)
        else none
      | .getPixel, [x, y] =>
        if x ≤ 15 ∧ y ≤ 15 then some (0x30000000 ||| BitVec.ofNat 32 y <<< 4 ||| BitVec.ofNat 32 x) else none
      | .fbRead, [row, byte] =>
        if row ≤ 15 ∧ byte ≤ 15 then some (0x40000000 ||| BitVec.ofNat 32 row <<< 4 ||| BitVec.ofNat 32 byte) else none
      | .fbWrite, [row, byte, value] =>
        if row ≤ 15 ∧ byte ≤ 15 ∧ value ≤ 255 then
          some (0x50000000 ||| BitVec.ofNat 32 value <<< 8 ||| BitVec.ofNat 32 row <<< 4 ||| BitVec.ofNat 32 byte)
        else none
      | .select, [ch] => if ch ≤ 15 then some (0x60000000 ||| BitVec.ofNat 32 ch) else none
      | .setAddr, [code] => if code ≤ 7 then some (0x70000000 ||| BitVec.ofNat 32 code) else none
      | .sendRow, [row] => if row ≤ 15 then some (0x80000000 ||| BitVec.ofNat 32 row) else none
      | .sendBlank, [] => some 0x80000010
      | .sample, [] => some 0x90000000
      | .probe, [x, y] =>
        if x ≤ 15 ∧ y ≤ 15 then some (0xA0000000 ||| BitVec.ofNat 32 y <<< 4 ||| BitVec.ofNat 32 x) else none
      | .draw, [] => some 0xB0000000
      | .scan, [] => some 0xC0000000
      | .readGrid, [bank, y] =>
        if bank ≤ 1 ∧ y ≤ 15 then some (0xD0000000 ||| BitVec.ofNat 32 bank <<< 8 ||| BitVec.ofNat 32 y) else none
      | .popEvent, [] => some 0xE0000000
      | .cfgRead, [idx] => if idx ≤ 255 then some (0xF0000000 ||| BitVec.ofNat 32 idx) else none
      | .cfgWrite, [idx, value] =>
        if idx ≤ 255 ∧ value ≤ 65535 then some (0xF1000000 ||| BitVec.ofNat 32 value <<< 8 ||| BitVec.ofNat 32 idx)
        else none
      | .clrStatus, [] => some 0xF2000000
      | .softReset, [] => some 0xF3000000
      | _, _ => none

/-! ### Acceptance and errors -/

/-- When the host's next access writes the word of a command to CMD and CORE is not held in reset, the step is that
command's `exec`, the access being taken from the schedule. The schedule is the model's own (log entries 1 and 2). -/
def Obligations.StepRunsTheDecodedCommand : Prop :=
  ∀ (s : State) (w : Word) (rest : List Turn) (i : Instr),
    s.schedule = .host (.write 0 4 w) :: rest → s.operating = true → decode w = .ok i →
    step s = exec i { s with schedule := rest }

/-- `ERR_ILLEGAL` is reported by the words that match no row of the opcode table and by no other, whatever `BUSY` and
`FAULT` are, and such a word changes nothing else. -/
def Obligations.IllegalWordsReportIllegal : Prop :=
  ∀ (s : State) (w : Word), s.operating = true →
    ∃ t, commandWrite w s = .next t ∧
      (t.err = .illegal ↔ ∀ r ∈ opcodeRows, r.matchesWord w = false) ∧
      ((∀ r ∈ opcodeRows, r.matchesWord w = false) → t = { s with err := .illegal })

/-- A command reports the first of ILLEGAL, BUSY, FAULT, RANGE that applies; `SEND_ROW 9` is the spec's example. -/
def Obligations.FirstErrorIsReported : Prop :=
  (∀ (s : State) (w : Word), s.operating = true →
    ∃ t, commandWrite w s = .next t ∧
      t.err = match decode w with
        | .error _ => .illegal
        | .ok i =>
          if i.cmdClass ≠ .always ∧ s.busy = true then .busy
          else if i.cmdClass = .bus ∧ s.fault = true then .fault
          else if i.inRange = false then .range
          else .ok) ∧
  (∀ s : State, s.operating = true →
    (s.busy = true → commandWrite 0x80000009 s = .next { s with err := .busy }) ∧
    (s.busy = false → s.fault = true → commandWrite 0x80000009 s = .next { s with err := .fault }) ∧
    (s.busy = false → s.fault = false → commandWrite 0x80000009 s = .next { s with err := .range }))

/-- A rejected command changes `STATUS.ERR` and nothing else; an accepted one leaves `STATUS.ERR = 0`. -/
def Obligations.RejectedCommandsArePrecise : Prop :=
  ∀ (s t : State) (w : Word), s.operating = true → commandWrite w s = .next t →
    (t.err ≠ .ok → t = { s with err := t.err }) ∧
    (∀ i, decode w = .ok i → i.inRange = true → (i.cmdClass ≠ .always → s.busy = false) →
      (i.cmdClass = .bus → s.fault = false) → t.err = .ok)

/-- While a long command is in progress the class B and class Q commands are refused with `ERR_BUSY`. -/
def Obligations.BusyRefusesBusAndQuietCommands : Prop :=
  ∀ s : State, s.busy = true →
    (∀ ch, exec (.select ch) s = .next { s with err := .busy }) ∧
    (∀ a, exec (.setAddr a) s = .next { s with err := .busy }) ∧
    (∀ r, exec (.sendRow r) s = .next { s with err := .busy }) ∧
    exec .sendBlank s = .next { s with err := .busy } ∧
    exec .sample s = .next { s with err := .busy } ∧
    (∀ x y, exec (.probe x y) s = .next { s with err := .busy }) ∧
    exec .draw s = .next { s with err := .busy } ∧
    exec .scan s = .next { s with err := .busy } ∧
    (∀ b y, exec (.readGrid b y) s = .next { s with err := .busy }) ∧
    (∀ k v, exec (.cfgWrite k v) s = .next { s with err := .busy }) ∧
    exec .softReset s = .next { s with err := .busy }

/-- With `FAULT = 1` and `BUSY = 0` every class B command is refused with `ERR_FAULT`. -/
def Obligations.FaultRefusesBusCommands : Prop :=
  ∀ s : State, s.busy = false → s.fault = true →
    (∀ ch, exec (.select ch) s = .next { s with err := .fault }) ∧
    (∀ a, exec (.setAddr a) s = .next { s with err := .fault }) ∧
    (∀ r, exec (.sendRow r) s = .next { s with err := .fault }) ∧
    exec .sendBlank s = .next { s with err := .fault } ∧
    exec .sample s = .next { s with err := .fault } ∧
    (∀ x y, exec (.probe x y) s = .next { s with err := .fault }) ∧
    exec .draw s = .next { s with err := .fault } ∧
    exec .scan s = .next { s with err := .fault }

/-- `ERR_RANGE` is what the commands with a range report outside it, when no earlier check fails; SET_PIXEL, GET_PIXEL
and SELECT never report it. -/
def Obligations.OutOfRangeOperandsReportRange : Prop :=
  (∀ s row byte, 5 < BitVec.toNat row ∨ 8 < BitVec.toNat byte →
    exec (.fbRead row byte) s = .next { s with err := .range } ∧
    ∀ v, exec (.fbWrite row byte v) s = .next { s with err := .range }) ∧
  (∀ s row, s.busy = false → s.fault = false → 5 < BitVec.toNat row →
    exec (.sendRow row) s = .next { s with err := .range }) ∧
  (∀ s x y, s.busy = false → s.fault = false → 11 < BitVec.toNat x ∨ 11 < BitVec.toNat y →
    exec (.probe x y) s = .next { s with err := .range }) ∧
  (∀ s b y, s.busy = false → 11 < BitVec.toNat y →
    exec (.readGrid b y) s = .next { s with err := .range }) ∧
  (∀ s k, 5 < BitVec.toNat k → exec (.cfgRead k) s = .next { s with err := .range }) ∧
  (∀ s k v, s.busy = false → 4 < BitVec.toNat k → exec (.cfgWrite k v) s = .next { s with err := .range }) ∧
  (∀ s t x y c, exec (.setPixel x y c) s = .next t ∨ exec (.getPixel x y) s = .next t ∨
    exec (.select x) s = .next t → t.err ≠ .range)

/-! ### Frame buffer -/

/-- The coordinate map is the quadrant table of 40_mapper.md R120, its inverse the table of R123, and it is a bijection
from the 144 coordinates onto the triples (row, byte group, bit); within a row
the 24 coordinates of its row-pair take the 24 (byte, bit) pairs once each. -/
def Obligations.MapIsABijection : Prop :=
  (∀ x y, x ≤ 11 → y ≤ 11 → (mapper x y).row = y % 6 ∧
    (x < 4 → y < 6 → (mapper x y).byte = 3 ∧ (mapper x y).bit = 4 + x) ∧
    (x < 4 → 6 ≤ y → (mapper x y).byte = 3 ∧ (mapper x y).bit = x) ∧
    (4 ≤ x → y < 6 → (mapper x y).byte = 0 ∧ (mapper x y).bit + 4 = x) ∧
    (4 ≤ x → 6 ≤ y → (mapper x y).byte = 6 ∧ (mapper x y).bit + 4 = x)) ∧
  (∀ r b, r ≤ 5 → b ≤ 7 → unmapper ⟨r, 0, b⟩ = (b + 4, r) ∧ unmapper ⟨r, 6, b⟩ = (b + 4, r + 6) ∧
    (4 ≤ b → unmapper ⟨r, 3, b⟩ = (b - 4, r)) ∧ (b ≤ 3 → unmapper ⟨r, 3, b⟩ = (b, r + 6))) ∧
  (∀ x y, x ≤ 11 → y ≤ 11 →
    (mapper x y).row ≤ 5 ∧ (mapper x y).byte ∈ [0, 3, 6] ∧ (mapper x y).bit ≤ 7 ∧ unmapper (mapper x y) = (x, y)) ∧
  (∀ m : MapPos, m.row ≤ 5 → m.byte ∈ [0, 3, 6] → m.bit ≤ 7 →
    ∃ x y, x ≤ 11 ∧ y ≤ 11 ∧ mapper x y = m ∧ (y = m.row ∨ y = m.row + 6) ∧ unmapper m = (x, y)) ∧
  (∀ x y x' y', x ≤ 11 → y ≤ 11 → x' ≤ 11 → y' ≤ 11 → mapper x y = mapper x' y' → x = x' ∧ y = y')

/-- CLEAR turns every byte of `FB` to `OFFBYTE` and changes nothing else but `STATUS.ERR`. -/
def Obligations.ClearTurnsEveryPixelOff : Prop :=
  ∀ s : State, ∃ t, exec .clear s = .next t ∧ t = { s with err := .ok, fb := t.fb } ∧
    (∀ a, memRead s.params.offByte t.fb a = s.params.offByte) ∧
    (s.params.colorActiveLow = true → ∀ r b, t.fbByte r b = 0xFF)

/-- SET_PIXEL on the matrix writes the green, red and blue bits of the pixel and no other bit; outside the matrix it
has no effect and is no error. -/
def Obligations.SetPixelWritesThreeBits : Prop :=
  (∀ (s : State) (x y : BitVec 4) (rgb : BitVec 3), x.toNat ≤ 11 → y.toNat ≤ 11 →
    ∃ t, exec (.setPixel x y rgb) s = .next t ∧ t = { s with err := .ok, fb := t.fb } ∧
      let m := mapper x.toNat y.toNat
      let level := fun on : Bool => if on then s.params.onLevel else !s.params.onLevel
      (∀ k, k < 8 →
        (t.fbByte m.row m.byte).getLsbD k =
          (if k = m.bit then level (rgb.getLsbD 1) else (s.fbByte m.row m.byte).getLsbD k) ∧
        (t.fbByte m.row (m.byte + 1)).getLsbD k =
          (if k = m.bit then level (rgb.getLsbD 2) else (s.fbByte m.row (m.byte + 1)).getLsbD k) ∧
        (t.fbByte m.row (m.byte + 2)).getLsbD k =
          (if k = m.bit then level (rgb.getLsbD 0) else (s.fbByte m.row (m.byte + 2)).getLsbD k)) ∧
      (∀ a, a ≠ fbAddr m.row m.byte → a ≠ fbAddr m.row (m.byte + 1) → a ≠ fbAddr m.row (m.byte + 2) →
        memRead s.params.offByte t.fb a = memRead s.params.offByte s.fb a)) ∧
  (∀ (s : State) (x y : BitVec 4) (rgb : BitVec 3), 11 < x.toNat ∨ 11 < y.toNat →
    exec (.setPixel x y rgb) s = .next { s with err := .ok })

/-- GET_PIXEL returns `{1, r, g, b}` of a pixel of the matrix and 0 outside it, and changes nothing else but
`STATUS.ERR`. -/
def Obligations.GetPixelReadsThePlanes : Prop :=
  (∀ (s : State) (x y : BitVec 4), x.toNat ≤ 11 → y.toNat ≤ 11 →
    ∃ t, exec (.getPixel x y) s = .next t ∧ t = { s with err := .ok, result := t.result } ∧
      let m := mapper x.toNat y.toNat
      t.result.getLsbD 3 = true ∧
      t.result.getLsbD 2 = ((s.fbByte m.row (m.byte + 1)).getLsbD m.bit == s.params.onLevel) ∧
      t.result.getLsbD 1 = ((s.fbByte m.row m.byte).getLsbD m.bit == s.params.onLevel) ∧
      t.result.getLsbD 0 = ((s.fbByte m.row (m.byte + 2)).getLsbD m.bit == s.params.onLevel) ∧
      ∀ k, 4 ≤ k → t.result.getLsbD k = false) ∧
  (∀ (s : State) (x y : BitVec 4), 11 < x.toNat ∨ 11 < y.toNat →
    exec (.getPixel x y) s = .next { s with err := .ok, result := 0 })

/-- A pixel reads back as the colour written to it, and every other pixel reads as before: for all 144 coordinates
and all 8 colours. -/
def Obligations.PixelReadsBackAsWritten : Prop :=
  ∀ (s : State) (x y x' y' : BitVec 4) (rgb : BitVec 3),
    x.toNat ≤ 11 → y.toNat ≤ 11 → x'.toNat ≤ 11 → y'.toNat ≤ 11 →
    ∃ t u v, exec (.setPixel x y rgb) s = .next t ∧ exec (.getPixel x' y') t = .next u ∧
      exec (.getPixel x' y') s = .next v ∧
      u.result = if x' = x ∧ y' = y then 0x8 ||| rgb.setWidth 32 else v.result

/-- FB_READ returns the byte of `FB`, zero-extended, and changes nothing else but `STATUS.ERR`. -/
def Obligations.FbReadReturnsTheByte : Prop :=
  ∀ (s : State) (row byte : BitVec 4), row.toNat ≤ 5 → byte.toNat ≤ 8 →
    exec (.fbRead row byte) s = .next
      { s with err := .ok, result := (memRead s.params.offByte s.fb (9 * row.toNat + byte.toNat)).setWidth 32 }

/-- FB_WRITE stores its value in one byte of `FB` and changes nothing else but `STATUS.ERR`. -/
def Obligations.FbWriteStoresOneByte : Prop :=
  ∀ (s : State) (row byte : BitVec 4) (val : BitVec 8), row.toNat ≤ 5 → byte.toNat ≤ 8 →
    ∃ t, exec (.fbWrite row byte val) s = .next t ∧ t = { s with err := .ok, fb := t.fb } ∧
      t.fbByte row.toNat byte.toNat = val ∧
      ∀ a, a ≠ fbAddr row.toNat byte.toNat →
        memRead s.params.offByte t.fb a = memRead s.params.offByte s.fb a

/-- Two memories in canonical form that read alike are the same data. The form is the model's choice (log entry 17). -/
def Obligations.CanonicalMemoriesThatReadAlikeAreEqual : Prop :=
  ∀ (off : Byte) (m m' : Memory), m.wf off = true → m'.wf off = true →
    (∀ a, memRead off m a = memRead off m' a) → m = m'

/-! ### Multiplexer -/

/-- With legal codes a channel index resolves to its code, any other index to `000`, and the address code of each
channel, of the deselected and of the all-high state reads back as that state. -/
def Obligations.ChannelCodesResolveAndReadBack : Prop :=
  ∀ p : Params, p.chAddrLegal = true →
    (∀ c : Fin 6, resolve p (BitVec.ofNat 4 c.val) = p.chAddr[c.val] ∧
      channelAt p p.chAddr[c.val] = .channel c) ∧
    (∀ ch : BitVec 4, 6 ≤ ch.toNat → resolve p ch = 0) ∧
    (∀ ch : BitVec 4, resolve p ch ≠ 7) ∧
    channelAt p 0 = .none ∧ channelAt p 7 = .allHigh ∧
    (p.chAddr = #v[1, 2, 3, 4, 5, 6] → ∀ a : BitVec 3, 1 ≤ a.toNat → a.toNat ≤ 6 →
      ∃ c : Fin 6, c.val = a.toNat - 1 ∧ channelAt p a = .channel c)

/-- SELECT and SETADDR: accepted, they drive their code in the first sequencer step, wait the settle delay with `BUSY`
set, and complete; nothing else changes. That this takes three steps, the stamps and the
recorded drive are the model's choice (log entries 5, 6, 11, 18 and 19). -/
def Obligations.SelectAndSetAddrDriveAndSettle : Prop :=
  ∀ s : State, s.busy = false → s.fault = false →
    ∀ (i : Instr) (a : BitVec 3),
      ((∃ c : Fin 6, i = .select (BitVec.ofNat 4 c.val) ∧ a = s.params.chAddr[c.val]) ∨
        (∃ ch : BitVec 4, 6 ≤ ch.toNat ∧ i = .select ch ∧ a = 0) ∨ i = .setAddr a) →
      ∃ t, exec i s = .next t ∧
        t = { s with err := .ok, busy := true, runop := i.op, progress := t.progress } ∧
        (runSequencer 1 t).pins = { s.pins with a := a } ∧ (runSequencer 1 t).busy = true ∧
        (runSequencer 2 t).busy = true ∧
        runSequencer 3 t =
          { s with
            err := .ok, busy := false, runop := 0, progress := [], waitCount := 0
            pins := { s.pins with a := a }
            cycles := s.cycles + s.waitCount + s.settleTime
            trace := (s.cycles + s.waitCount, .addr a) :: s.trace }

/-- In every long command's bus steps each `SetAddr` is followed at once by the settle wait, and what the step after
that wait shows is stamped at least the settle delay after the change of the address lines. What counts as one step,
the wait as a step of its own and the stamps are the model's choice (log entries 5, 18 and 19). -/
def Obligations.SettleFollowsEveryAddressChange : Prop :=
  (∀ (s t : State) (i : Instr), i.isLong = true → s.busy = false → exec i s = .next t → t.err = .ok →
    sequenced .idle t.progress = true) ∧
  (∀ c : Fin 6, ∀ rest, sequenced .idle rest = true → sequenced .idle (probeSteps c ++ rest) = true) ∧
  (∀ (s : State) (a : BitVec 3) (rest : List BusStep),
    s.progress = .setAddr a :: rest → sequenced .idle s.progress = true →
      ∃ rest', rest = .wait .settle :: rest' ∧
        (runSequencer 1 s).trace = ((runSequencer 1 s).cycles, .addr a) :: s.trace ∧
        (runSequencer 2 s).trace = (runSequencer 1 s).trace ∧
        (runSequencer 2 s).pins = (runSequencer 1 s).pins ∧
        ∀ e ∈ (runSequencer 3 s).trace, e ∈ (runSequencer 2 s).trace ∨
          (runSequencer 1 s).cycles + s.settleTime ≤ e.1)

/-- With legal channel codes a step drives `111` on the address lines only while SETADDR runs, and no other command's
remaining bus steps hold that code. -/
def Obligations.AllHighIsReachedOnlyBySetAddr : Prop :=
  ∀ s t : State, s.params.chAddrLegal = true → step s = .next t →
    (s.runop ≠ 7 → .setAddr 7 ∉ s.progress) →
    (t.runop ≠ 7 → .setAddr 7 ∉ t.progress) ∧ (t.pins.a = 7 → s.pins.a = 7 ∨ s.runop = 7)

/-! ### Serializer -/

/-- A bit of a transfer, when no fault is sampled before its byte: bit `j` of the stream is byte `j div 8`, bit
`7 − (j mod 8)`; `SER` takes it, then `SCK` rises and falls half a period apart; the board takes it into its shift stage.
The fault check in the step of the first bit, the exact stamps and the step that stays in the progress are the model's
choice (log entries 5, 8, 11 and 18). -/
def Obligations.ShiftBitSendsTheStreamInOrder : Prop :=
  ∀ (s : State) (rest : List BusStep) (h : s.txpos.val < 72),
    s.progress = .shiftBit :: rest → (s.txpos.val % 8 = 0 → s.inputs.busFault = false) →
    let t := sequencerStep s
    let b := (s.txbuf[s.txpos.val / 8]'(by omega)).getLsbD (7 - s.txpos.val % 8)
    let at0 := s.cycles + s.waitCount
    t.trace = (at0 + s.params.tSck, .sck false) :: (at0 + s.params.tSck / 2, .sck true) :: (at0, .ser b) :: s.trace ∧
    t.board = { s.board with shifted := s.board.shifted ++ [b] } ∧
    t.txpos.val = s.txpos.val + 1 ∧ t.txbuf = s.txbuf ∧
    t.pins = { s.pins with ser := b, sck := false } ∧
    t.progress = (if s.txpos.val = 71 then rest else s.progress)

/-- SEND_ROW and SEND_BLANK with `BUS_FAULT` low: after 76 sequencer steps the row was sent most significant bit first
and latched, the pins are as before, `T_shift` has passed and nothing else has changed. The number of steps, the
cycle count, the recorded events and `TXPOS` at the end are the model's choice (log entries 5 to 9, 11, 18 and 21). -/
def Obligations.SendTransmitsAndLatchesTheRow : Prop :=
  ∀ s : State, s.busy = false → s.fault = false → s.inputs.busFault = false →
    s.pins.ser = false → s.pins.sck = false → s.pins.lat = s.params.latIdle →
    ∀ (i : Instr) (row : Row),
      ((∃ r : Fin 6, i = .sendRow (BitVec.ofNat 4 r.val) ∧
          ∀ b : Fin 9, row[b.val] = memRead s.params.offByte s.fb (9 * r.val + b.val)) ∨
        (i = .sendBlank ∧ row = Vector.replicate 9 s.params.offByte)) →
      ∃ t, exec i s = .next t ∧ t = { s with err := .ok, busy := true, runop := 8, progress := t.progress } ∧
        let u := runSequencer 76 t
        u = { s with
              err := .ok, busy := false, runop := 0, progress := [], waitCount := 0, txbuf := row, txpos := 72
              board := { shifted := [], latched := row }
              cycles := s.cycles + s.waitCount + s.shiftTime
              trace := u.trace } ∧
        u.observations = (shiftEvents s.params row).reverse ++ s.observations

/-- DRAW with `BUS_FAULT` low: after its last sequencer step the six rows of the frame buffer were sent on their
channels in order, each followed by the blank row if `ANTI_GHOST` is set, the lines are deselected, and the time of
R292 has passed. The number of steps, the cycle count and the recorded events are the model's choice (log entries 5 to
9, 11, 18, 19 and 21). -/
def Obligations.DrawShowsEveryRowAndDeselects : Prop :=
  ∀ s : State, s.busy = false → s.fault = false → s.inputs.busFault = false →
    s.pins.ser = false → s.pins.sck = false → s.pins.lat = s.params.latIdle →
    ∃ t, exec .draw s = .next t ∧ t = { s with err := .ok, busy := true, runop := 0xB, progress := t.progress } ∧
      let ag := if s.cfg.antiGhost then 1 else 0
      let u := runSequencer (6 * (78 + 75 * ag) + 4) t
      u = { s with
            err := .ok, busy := false, runop := 0, progress := [], waitCount := 0, snap := s.fb
            txbuf := u.txbuf, txpos := u.txpos, board := u.board
            pins := { s.pins with a := 0 }
            cycles := s.cycles + s.waitCount +
              6 * (s.settleTime + s.shiftTime + s.onTime + ag * s.shiftTime) + s.settleTime
            trace := u.trace } ∧
      u.board = { shifted := [], latched := if s.cfg.antiGhost then blankRow s.params else s.fbRow 5 } ∧
      u.observations = (drawEvents s.params s.cfg fun c => s.fbRow c.val).reverse ++ s.observations

/-- DRAW ends deselected, and then no plane of any pixel is lit, whatever row the board still holds. The number of
steps is the model's choice (log entries 6 to 9, 18 and 19). -/
def Obligations.NothingIsLitAfterADraw : Prop :=
  ∀ s : State, s.params.chAddrLegal = true → s.busy = false → s.fault = false → s.inputs.busFault = false →
    ∃ t, exec .draw s = .next t ∧
      ∀ x y p, x ≤ 11 → y ≤ 11 → p ≤ 2 →
        (runSequencer (6 * (78 + 75 * (if s.cfg.antiGhost then 1 else 0)) + 4) t).lit x y p = false

/-- A running command whose remaining bus steps read no frame buffer is not disturbed by frame-buffer writes: every
sequencer step does the same and leaves the new frame buffer alone; and after the first step of a DRAW or SCAN no
remaining step reads it. What counts as one step is the model's choice (log entries 6 to 9 and 18). -/
def Obligations.FbWritesDoNotDisturbARunningCycle : Prop :=
  (∀ (s : State) (fb : Memory) (n : Nat), (∀ b ∈ s.progress, readsFb b = false) →
    runSequencer n { s with fb := fb } = { runSequencer n s with fb := fb }) ∧
  (∀ (s t : State) (i : Instr), i = .draw ∨ i = .scan → s.busy = false → exec i s = .next t → t.err = .ok →
    (∀ b ∈ (runSequencer 1 t).progress, readsFb b = false) ∧ (runSequencer 1 t).snap = s.fb)

/-! ### Scanner -/

/-- SAMPLE reads the six input lines in one step and changes nothing else but `STATUS.ERR`. That the six samples are
recorded in the order of the lines is the model's choice (log entry 11). -/
def Obligations.SampleReadsTheSixLines : Prop :=
  ∀ s : State, s.busy = false → s.fault = false →
    ∃ t, exec .sample s = .next t ∧
      t = { s with err := .ok, senseLines := t.senseLines, trace := t.trace } ∧
      (∀ c : Fin 6, t.senseLines.getLsbD c.val = (s.inputs.lines.getLsbD c.val == !s.params.inActiveLow)) ∧
      t.trace = ((List.finRange 6).map fun c => (s.cycles, Obs.sample c (s.inputs.lines.getLsbD c.val))).reverse ++ s.trace

/-- PROBE with `BUS_FAULT` low: it sends the frame-buffer row of the cell with the cell's red bit on, samples the line
of the cell's row-pair into `SENSE.PROBE` right after, and changes neither `RAW` nor the address lines. The
number of steps, the cycle count, the recorded events and `TXPOS` at the end are the model's choice (log entries 5 to 9,
11, 18 and 21). -/
def Obligations.ProbeSendsTheRedBitAndSamples : Prop :=
  ∀ (s : State) (x y : Fin 12), s.busy = false → s.fault = false → s.inputs.busFault = false →
    s.pins.ser = false → s.pins.sck = false → s.pins.lat = s.params.latIdle →
    ∃ t, exec (.probe (BitVec.ofNat 4 x.val) (BitVec.ofNat 4 y.val)) s = .next t ∧
      t = { s with err := .ok, busy := true, runop := 0xA, progress := t.progress } ∧
      let m := mapper x.val y.val
      let level := s.inputs.lines.getLsbD (y.val % 6)
      let u := runSequencer 77 t
      u = { s with
            err := .ok, busy := false, runop := 0, progress := [], waitCount := 0
            senseProbe := (level == !s.params.inActiveLow)
            txbuf := u.txbuf, txpos := 72, board := { shifted := [], latched := u.txbuf }
            cycles := s.cycles + s.waitCount + s.shiftTime
            trace := u.trace } ∧
      (∀ b : Fin 9, ∀ k, k < 8 → (u.txbuf[b.val]).getLsbD k =
        if b.val = m.byte + 1 ∧ k = m.bit then s.params.onLevel else (s.fbByte m.row b.val).getLsbD k) ∧
      u.observations = .sample (Fin.ofNat 6 y.val) level :: ((shiftEvents s.params u.txbuf).reverse ++ s.observations)

/-- SCAN with `BUS_FAULT` low, with and without the coarse check and the anti-ghost row, whatever the environment does
with the input lines: after its last step `RAW[y][x]` is true exactly if the probe of `(x, y)` was made and sampled
active, the debounce pass ran once on that grid, the lines are deselected, the time of R293 has passed, and the rows
sent, the samples and the other pin events are those of the six channels in order. The numbers of the steps, the cycle
count, the recorded events and `TXPOS` at the end are the model's choice (log entries 5 to 9, 11, 18, 19 and 21). -/
def Obligations.ScanRebuildsRawFromTheProbes : Prop :=
  ∀ (s : State) (env : Nat → Inputs), s.busy = false → s.fault = false →
    (∀ k, (env k).busFault = false ∧ (env k).rstN = true) →
    ∃ t, exec .scan s = .next t ∧ t = { s with err := .ok, busy := true, runop := 0xC, progress := t.progress } ∧
      let start := channelStart s.params s.cfg env
      let go := fun c => channelGo s.params s.cfg env (start c) c
      let u := runWithInputs env (start 6 + 2) t
      let d := State.debouncePass { s with raw := u.raw }
      let last := if go 5 then probeRow s.params (s.fbRow 5) 11 11 else coarseRow s.params (s.fbRow 5)
      u = { s with
            err := .ok, busy := false, runop := 0, progress := [], waitCount := 0, snap := s.fb
            raw := u.raw, prev := d.prev, cnt := d.cnt, stable := d.stable, evq := d.evq, ovf := d.ovf
            txbuf := last, txpos := 72, board := { shifted := [], latched := last }
            pins := { a := 0, ser := false, sck := false, lat := s.params.latIdle }
            inputs := env (start 6 + 1)
            cycles := s.cycles + s.waitCount + ((List.range 6).map fun c => s.channelTime (go c)).sum + s.params.tDeb
            trace := u.trace } ∧
      u.observations = (scanEvents s.params s.cfg env fun c => s.fbRow c.val).reverse ++ s.observations ∧
      ∀ (c : Fin 6) (j : Fin 2) (x : Fin 12),
        u.raw.cell ⟨c.val + 6 * j.val, by omega⟩ x =
          (go c.val && ((env (probeStart s.cfg (start c.val) + 76 * (12 * j.val + x.val) + 75)).lines.getLsbD c.val
            == !s.params.inActiveLow))

/-- The sensing of a channel deselects and waits, then, with the coarse check enabled, sends the snapshot row with all 24
red bits of the row-pair on; the sample that follows decides whether the channel's 24 probes come next: rows `c` and
`c + 6` with columns ascending, each the snapshot row with the red bit of its cell on and then the sample of that cell.
The bus steps are the model's choice (log entries 6 to 9, 18 and 19). -/
def Obligations.CoarseCheckGuardsTheProbes : Prop :=
  (∀ (p : Params) (w : Row) (b : Fin 9), (coarseRow p w)[b.val] =
    if b.val % 3 = 1 then (if p.colorActiveLow then 0x00 else 0xFF) else w[b.val]) ∧
  (∀ (p : Params) (w : Row) (x y : Fin 12) (b : Fin 9) (k : Nat), k < 8 →
    ((probeRow p w x.val y.val)[b.val]).getLsbD k =
      if b.val = (mapper x.val y.val).byte + 1 ∧ k = (mapper x.val y.val).bit then p.onLevel
      else (w[b.val]).getLsbD k) ∧
  (∀ (cfg : CfgRegs) (c : Fin 6), senseSteps cfg c =
    if cfg.coarse then
      [.setAddr 0, .wait .settle, .beginShift (.snapCoarse c), .shiftBit, .latchOn, .latchOff, .coarseSample c]
    else [.setAddr 0, .wait .settle] ++ probeSteps c) ∧
  (∀ (s : State) (c : Fin 6) (rest : List BusStep), s.progress = .beginShift (.snapCoarse c) :: rest →
    (sequencerStep s).progress = rest ∧ (sequencerStep s).txpos = 0 ∧
    (sequencerStep s).txbuf = coarseRow s.params (s.snapRow c.val) ∧
    ∀ b : Fin 9, (sequencerStep s).txbuf[b.val] =
      if b.val % 3 = 1 then (if s.params.colorActiveLow then 0x00 else 0xFF) else s.snapByte c.val b.val) ∧
  (∀ (s : State) (c : Fin 6) (rest : List BusStep), s.progress = .coarseSample c :: rest →
    (sequencerStep s).progress =
      (if (s.inputs.lines.getLsbD c.val == !s.params.inActiveLow) then probeSteps c ++ rest else rest) ∧
    (sequencerStep s).raw = s.raw) ∧
  (∀ c : Fin 6, probeSteps c = (List.range 24).flatMap fun k =>
    let y := Fin.ofNat 12 (c.val + 6 * (k / 12))
    let x := Fin.ofNat 12 (k % 12)
    [.beginShift (.snapProbe x y), .shiftBit, .latchOn, .latchOff, .cellSample c y x]) ∧
  (∀ (s : State) (x y : Fin 12) (rest : List BusStep), s.progress = .beginShift (.snapProbe x y) :: rest →
    let m := mapper x.val y.val
    (sequencerStep s).progress = rest ∧ (sequencerStep s).txpos = 0 ∧
    (sequencerStep s).txbuf = probeRow s.params (s.snapRow m.row) x.val y.val ∧
    ∀ b : Fin 9, ∀ k, k < 8 → ((sequencerStep s).txbuf[b.val]).getLsbD k =
      if b.val = m.byte + 1 ∧ k = m.bit then s.params.onLevel else (s.snapByte m.row b.val).getLsbD k) ∧
  (∀ (s : State) (c : Fin 6) (y x : Fin 12) (rest : List BusStep), s.progress = .cellSample c y x :: rest →
    (sequencerStep s).progress = rest ∧
    ∀ y' x', (sequencerStep s).raw.cell y' x' =
      if y' = y ∧ x' = x ∧ (s.inputs.lines.getLsbD c.val == !s.params.inActiveLow) = true then true
      else s.raw.cell y' x')

/-! ### Debounce and events -/

/-- One cell's debounce step (44_debounce.md R201): the saturating match counter, the recorded sample, and the commit
with its event. -/
def Obligations.DebounceCellFollowsTheStateMachine : Prop :=
  ∀ (s : State) (y x : Fin 12),
    let r := s.raw.cell y x
    let count := if r = s.prev.cell y x then min ((s.cnt.cell y x).toNat + 1) 255 else 0
    let commits := s.cfg.debThresh.toNat ≤ count ∧ s.stable.cell y x ≠ r
    let t := s.debounceCell y x
    (t.cnt.cell y x).toNat = count ∧ t.prev.cell y x = r ∧
    (commits → t.stable.cell y x = r ∧
      (s.evq.length < s.params.evqDepth →
        t.evq = s.evq ++ [{ kind := if r then .pressed else .released, y := y, x := x }] ∧ t.ovf = s.ovf) ∧
      (s.params.evqDepth ≤ s.evq.length → t.evq = s.evq ∧ t.ovf = true)) ∧
    (¬ commits → t.stable.cell y x = s.stable.cell y x ∧ t.evq = s.evq ∧ t.ovf = s.ovf)

/-- The debounce step of one cell neither reads nor changes the state of another, and changes nothing of CORE but
`PREV`, `CNT`, `STABLE`, the queue and `OVF`. -/
def Obligations.DebounceCellsAreIndependent : Prop :=
  ∀ (s : State) (y x : Fin 12),
    let t := s.debounceCell y x
    t = { s with prev := t.prev, cnt := t.cnt, stable := t.stable, evq := t.evq, ovf := t.ovf } ∧
    (∀ y' x', ¬ (y' = y ∧ x' = x) →
      t.prev.cell y' x' = s.prev.cell y' x' ∧ t.cnt.cell y' x' = s.cnt.cell y' x' ∧
      t.stable.cell y' x' = s.stable.cell y' x') ∧
    (∀ s' : State, s'.cfg.debThresh = s.cfg.debThresh → s'.raw.cell y x = s.raw.cell y x →
      s'.prev.cell y x = s.prev.cell y x → s'.cnt.cell y x = s.cnt.cell y x →
      s'.stable.cell y x = s.stable.cell y x →
      let t' := s'.debounceCell y x
      t'.prev.cell y x = t.prev.cell y x ∧ t'.cnt.cell y x = t.cnt.cell y x ∧
      t'.stable.cell y x = t.stable.cell y x)

/-- The debounce pass advances each of the 144 cells once, as that cell's own step does, queues the events of the
cells that commit in row-major order, at most one a cell, as far as the queue has room, and sets `OVF` exactly when one
is dropped. -/
def Obligations.DebouncePassAdvancesEveryCellOnce : Prop :=
  ∀ s : State,
    let t := s.debouncePass
    (∀ y x, t.prev.cell y x = (s.debounceCell y x).prev.cell y x ∧
      t.cnt.cell y x = (s.debounceCell y x).cnt.cell y x ∧
      t.stable.cell y x = (s.debounceCell y x).stable.cell y x) ∧
    t.evq = s.evq ++ s.passEvents.take (s.params.evqDepth - s.evq.length) ∧
    t.ovf = (s.ovf || decide (s.params.evqDepth - s.evq.length < s.passEvents.length)) ∧
    (s.passEvents.Pairwise fun e f => e.y < f.y ∨ (e.y = f.y ∧ e.x < f.x)) ∧ s.passEvents.length ≤ 144 ∧ t.raw = s.raw

/-- A cell whose raw sample changes at every debounce pass never commits and never emits an event, for every legal
threshold: its counter is 0 after every pass. -/
def Obligations.ChangingSampleNeverCommits : Prop :=
  ∀ (s : State) (grids : Nat → Grid Bool) (y x : Fin 12), s.cfg.debThresh ≠ 0 →
    (grids 0).cell y x ≠ s.prev.cell y x → (∀ n, (grids (n + 1)).cell y x ≠ (grids n).cell y x) →
    ∀ n,
      let t := beforePass grids s n
      t.stable.cell y x = s.stable.cell y x ∧ (0 < n → t.cnt.cell y x = 0) ∧ ∀ e ∈ t.passEvents, e.isOf y x = false

/-- A cell whose raw sample changes to a value `v` other than its committed one and keeps it commits at the pass where
its counter first reaches `DEB_THRESH`, the `(DEB_THRESH + 1)`-th with that sample (pass number `DEB_THRESH`, counted
from 0), and emits exactly one event, at that pass. -/
def Obligations.HeldSampleCommitsOnce : Prop :=
  ∀ (s : State) (grids : Nat → Grid Bool) (y x : Fin 12) (v : Bool), s.cfg.debThresh ≠ 0 →
    v ≠ s.prev.cell y x → v ≠ s.stable.cell y x → (∀ n, (grids n).cell y x = v) →
    ∀ n,
      let t := beforePass grids s n
      let e : Event := { kind := if v then .pressed else .released, y := y, x := x }
      (0 < n → (t.cnt.cell y x).toNat = min (n - 1) 255) ∧
      t.stable.cell y x = (if n ≤ s.cfg.debThresh.toNat then s.stable.cell y x else v) ∧
      (t.passEvents.filter fun f => f.isOf y x) = if n = s.cfg.debThresh.toNat then [e] else []

/-- POP_EVENT removes the oldest event and returns `{1, 22'b0, KIND, Y, X}`; on an empty queue it returns 0; it changes
nothing else but `STATUS.ERR`. -/
def Obligations.PopEventReturnsTheOldest : Prop :=
  (∀ (s : State) (e : Event) (rest : List Event), s.evq = e :: rest →
    exec .popEvent s = .next
      { s with
        err := .ok, evq := rest
        result := 0x80000000 ||| (if e.kind = .pressed then 0x100 else 0) ||| BitVec.ofNat 32 (16 * e.y.val) |||
          BitVec.ofNat 32 e.x.val }) ∧
  (∀ s : State, s.evq = [] → exec .popEvent s = .next { s with err := .ok, result := 0 })

/-- READ_GRID returns a row of `RAW` or `STABLE`, bit `x` being cell `[y][x]`, and changes nothing else but
`STATUS.ERR`. -/
def Obligations.ReadGridReturnsTheRow : Prop :=
  ∀ (s : State) (bank : BitVec 1) (y : Fin 12), s.busy = false →
    ∃ t, exec (.readGrid bank (BitVec.ofNat 4 y.val)) s = .next t ∧
      t = { s with err := .ok, result := t.result } ∧
      (∀ x : Fin 12, t.result.getLsbD x.val = if bank = 1 then s.stable.cell y x else s.raw.cell y x) ∧
      ∀ k, 12 ≤ k → t.result.getLsbD k = false

/-! ### System -/

/-- NOP clears `STATUS.ERR`, and CLR_STATUS clears `STATUS.ERR` and `STATUS.OVF`, and they change nothing else. -/
def Obligations.NopAndClrStatusClearTheirFlags : Prop :=
  ∀ s : State,
    exec .nop s = .next { s with err := .ok } ∧ exec .clrStatus s = .next { s with err := .ok, ovf := false }

/-- CFG_READ returns the configuration register of its index, reserved bits reading 0, and changes nothing else but
`STATUS.ERR`. -/
def Obligations.CfgReadReturnsTheRegister : Prop :=
  ∀ s : State,
    exec (.cfgRead 0) s = .next { s with err := .ok, result := s.cfg.settleUs.setWidth 32 } ∧
    exec (.cfgRead 1) s = .next { s with err := .ok, result := s.cfg.latchUs.setWidth 32 } ∧
    exec (.cfgRead 2) s = .next { s with err := .ok, result := s.cfg.onTimeUs.setWidth 32 } ∧
    exec (.cfgRead 3) s = .next { s with err := .ok, result := s.cfg.debThresh.setWidth 32 } ∧
    (∃ t, exec (.cfgRead 4) s = .next t ∧ t = { s with err := .ok, result := t.result } ∧
      t.result.getLsbD 0 = s.cfg.antiGhost ∧ t.result.getLsbD 1 = s.cfg.coarse ∧
      t.result.getLsbD 2 = s.cfg.irqEn ∧ ∀ k, 3 ≤ k → t.result.getLsbD k = false) ∧
    (∃ t, exec (.cfgRead 5) s = .next t ∧ t = { s with err := .ok, result := t.result } ∧
      (s.params.evqDepth ≤ 255 → (t.result.extractLsb' 0 8).toNat = s.params.evqDepth) ∧
      t.result.getLsbD 8 = s.params.colorActiveLow ∧ t.result.getLsbD 9 = s.params.latActiveHigh ∧
      t.result.getLsbD 10 = s.params.inActiveLow ∧ ∀ k, 11 ≤ k → t.result.getLsbD k = false)

/-- CFG_WRITE stores its value in the register of its index: a zero `DEB_THRESH` stores 1 and reserved bits are
ignored; nothing else changes but `STATUS.ERR`. -/
def Obligations.CfgWriteStoresTheRegister : Prop :=
  ∀ (s : State) (v : Half), s.busy = false →
    exec (.cfgWrite 0 v) s = .next { s with err := .ok, cfg := { s.cfg with settleUs := v } } ∧
    exec (.cfgWrite 1 v) s = .next { s with err := .ok, cfg := { s.cfg with latchUs := v } } ∧
    exec (.cfgWrite 2 v) s = .next { s with err := .ok, cfg := { s.cfg with onTimeUs := v } } ∧
    exec (.cfgWrite 3 v) s = .next { s with
      err := .ok, cfg := { s.cfg with debThresh := if v.setWidth 8 = 0 then 1 else v.setWidth 8 } } ∧
    exec (.cfgWrite 4 v) s = .next { s with
      err := .ok
      cfg := { s.cfg with antiGhost := v.getLsbD 0, coarse := v.getLsbD 1, irqEn := v.getLsbD 2 } }

/-! ### Reset -/

/-- Reset by `RST_n`, in every state, and SOFT_RESET while no long command runs give every state of CORE its reset
value and the pins their reset levels; they change neither the parameters nor `LATCHED`. -/
def Obligations.ResetGivesEveryStateItsResetValue : Prop :=
  ∀ s t : State,
    ((s.busy = false ∧ exec .softReset s = .next t) ∨
      (∃ levels, levels.rstN = false ∧ t = s.environmentTurn levels)) →
    t.result = 0 ∧ t.err = .ok ∧ t.fault = false ∧ t.ovf = false ∧ t.statusWord = 0 ∧ t.senseWord = 0 ∧
    t.cfg = { settleUs := 10, latchUs := 1, onTimeUs := 500, debThresh := 4,
              antiGhost := false, coarse := false, irqEn := false } ∧
    (∀ a, memRead t.params.offByte t.fb a = t.params.offByte ∧ memRead t.params.offByte t.snap a = t.params.offByte) ∧
    (∀ b : Fin 9, t.txbuf[b.val] = t.params.offByte) ∧ t.txpos = 0 ∧
    (∀ y x, t.raw.cell y x = false ∧ t.prev.cell y x = false ∧ t.stable.cell y x = false ∧ t.cnt.cell y x = 0) ∧
    t.evq = [] ∧ t.busy = false ∧ t.runop = 0 ∧ t.progress = [] ∧ t.waitCount = 0 ∧
    t.pins = { a := 0, ser := false, sck := false, lat := t.params.latIdle } ∧ t.evtIrq = false ∧
    t.params = s.params ∧ t.board.latched = s.board.latched

/-- SOFT_RESET completes whenever no long command runs, also after a transport fault. That it keeps the schedule is the
model's choice (log entry 22). -/
def Obligations.SoftResetRecoversFromAFault : Prop :=
  ∀ s : State, s.busy = false →
    ∃ t, exec .softReset s = .next t ∧ t.fault = false ∧ t.inputs = s.inputs ∧ t.board = s.board ∧
      t.schedule = s.schedule ∧
      ∃ u, exec .draw t = .next u ∧ u.busy = true ∧ u.err = .ok

/-- `RST_n = 0` holds CORE in reset; held, it runs no command and no bus step; it leaves reset on the first block clock
edge with `RST_n = 1` and in no other step. That a CMD write to a held CORE is without effect is the model's choice (log
entry 10), and so are the turns (log entry 2). -/
def Obligations.ResetHoldsUntilTheClockEdge : Prop :=
  (∀ (s : State) (levels : Inputs) (rest : List Turn), s.schedule = .environment levels :: rest →
    levels.rstN = false → ∃ t, step s = .next t ∧ t.resetHeld = true ∧ t.operating = false ∧ t.resetCore = t) ∧
  (∀ (s : State) (levels : Inputs) (rest : List Turn), s.schedule = .environment levels :: rest →
    levels.rstN = true → step s = .next { s with schedule := rest, inputs := levels }) ∧
  (∀ (s : State) (rest : List Turn), s.operating = false →
    (s.schedule = .sequencer :: rest ∨ ∃ w, s.schedule = .host (.write 0 4 w) :: rest) →
    step s = .next { s with schedule := rest }) ∧
  (∀ (s : State) (n : Nat) (rest : List Turn), s.schedule = .clock n :: rest →
    step s = .next { s with
      schedule := rest, waitCount := s.waitCount - n, cycles := s.cycles + n
      resetHeld := s.resetHeld && (decide (n = 0) || !s.inputs.rstN) }) ∧
  (∀ s t : State, (s.inputs.rstN = false → s.resetHeld = true) → step s = .next t →
    s.operating = false → t.operating = true →
    s.inputs.rstN = true ∧ ∃ n rest, s.schedule = .clock n :: rest ∧ 0 < n)

/-- The machine after reset meets the invariant. -/
def Obligations.ResetMeetsTheInvariant : Prop :=
  State.reset.Inv

/-! ### The transport fault -/

/-- When `BUS_FAULT` is sampled 1 before a byte, the one sequencer step aborts the command: no bit leaves and nothing
is latched, the pins go idle with the lines deselected, `FAULT` is set, the remaining steps are discarded, and what
was done before stays. The check in the step of the byte's first bit, the order of the four recorded drives, the kept
`TXBUF` and `TXPOS` and the cycle count are the model's choice (log entries 5, 8, 11 and 21). -/
def Obligations.TransportFaultAbortsTheCommand : Prop :=
  ∀ (s : State) (rest : List BusStep), s.progress = .shiftBit :: rest → s.txpos.val < 72 → s.txpos.val % 8 = 0 →
    s.inputs.busFault = true →
    let t := sequencerStep s
    t = { s with
          fault := true, busy := false, runop := 0, progress := [], waitCount := 0
          pins := { a := 0, ser := false, sck := false, lat := s.params.latIdle }
          board := { s.board with shifted := t.board.shifted }
          cycles := s.cycles + s.waitCount, trace := t.trace, freeDraws := t.freeDraws } ∧
    t.observations = [.addr 0, .lat s.params.latIdle, .sck false, .ser false] ++ s.observations

/-- `FAULT` is sticky: a step clears it only if it runs SOFT_RESET or the environment holds `RST_n` at 0. -/
def Obligations.OnlyResetClearsFault : Prop :=
  ∀ s t : State, step s = .next t → s.fault = true → t.fault = false →
    (∃ rest, s.schedule = .host (.write 0 4 (encode .softReset)) :: rest) ∨
    (∃ levels rest, s.schedule = .environment levels :: rest ∧ levels.rstN = false)

/-! ### Whole-machine rules -/

/-- Every step keeps the invariant. -/
def Obligations.EveryStepKeepsTheInvariant : Prop :=
  ∀ s t : State, s.Inv → step s = .next t → t.Inv

/-- The bus pins change only in a sequencer step or a reset: no other access of the host, no change of the input
levels and no clock tick moves them. -/
def Obligations.OnlyTheSequencerDrivesThePins : Prop :=
  ∀ s t : State, step s = .next t → t.pins ≠ s.pins →
    s.schedule = [] ∨ (∃ rest, s.schedule = .sequencer :: rest) ∨
    (∃ rest, s.schedule = .host (.write 0 4 (encode .softReset)) :: rest) ∨
    (∃ levels rest, s.schedule = .environment levels :: rest ∧ levels.rstN = false)

/-- The configuration does not change while a long command runs, unless `RST_n` resets CORE. -/
def Obligations.ConfigurationIsConstantWhileBusy : Prop :=
  ∀ s t : State, step s = .next t → s.busy = true → t.cfg ≠ s.cfg →
    ∃ levels rest, s.schedule = .environment levels :: rest ∧ levels.rstN = false

/-- The interrupt falls only in a step that runs POP_EVENT, CFG_WRITE or SOFT_RESET or is a reset by `RST_n`, and
rises only in a sequencer step or a step that runs CFG_WRITE. -/
def Obligations.InterruptFollowsTheQueue : Prop :=
  ∀ s t : State, step s = .next t →
    (s.evtIrq = true → t.evtIrq = false →
      (∃ w rest, s.schedule = .host (.write 0 4 w) :: rest ∧
        (decode w = .ok .popEvent ∨ (∃ k v, decode w = .ok (.cfgWrite k v)) ∨ decode w = .ok .softReset)) ∨
      (∃ levels rest, s.schedule = .environment levels :: rest ∧ levels.rstN = false)) ∧
    (s.evtIrq = false → t.evtIrq = true →
      s.schedule = [] ∨ (∃ rest, s.schedule = .sequencer :: rest) ∨
      (∃ w rest k v, s.schedule = .host (.write 0 4 w) :: rest ∧ decode w = .ok (.cfgWrite k v)))

/-- `OVF` is set only in a sequencer step that performs the debounce pass, and cleared only by CLR_STATUS, SOFT_RESET or
`RST_n`. -/
def Obligations.OverflowFlagHasItsWriters : Prop :=
  ∀ s t : State, step s = .next t →
    (s.ovf = false → t.ovf = true → (∃ rest, s.progress = .debouncePass :: rest) ∧
      (s.schedule = [] ∨ ∃ rest, s.schedule = .sequencer :: rest)) ∧
    (s.ovf = true → t.ovf = false →
      (∃ rest, s.schedule = .host (.write 0 4 (encode .clrStatus)) :: rest) ∨
      (∃ rest, s.schedule = .host (.write 0 4 (encode .softReset)) :: rest) ∨
      (∃ levels rest, s.schedule = .environment levels :: rest ∧ levels.rstN = false))

/-- The parameters never change. That they stand in State is the model's choice (log entry 4). -/
def Obligations.ParametersNeverChange : Prop :=
  ∀ s t : State, step s = .next t → t.params = s.params

/-! ### Host port -/

/-- A read of a host register returns its word and changes no state of CORE; a write of RESULT, STATUS or SENSE is
ignored. CMD reads 0. That the read is recorded in the trace is the model's choice (log entry 16). -/
def Obligations.RegisterAccessesHaveNoSideEffect : Prop :=
  ∀ (s : State) (rest : List Turn),
    (∀ (offset : Nat) (r : HostReg),
      (offset, r) ∈ [(0, HostReg.cmd), (4, HostReg.result), (8, HostReg.status), (12, HostReg.sense)] →
      s.schedule = .host (.read offset 4) :: rest →
      step s = .next { s with
        schedule := rest
        trace := (s.cycles, .hostRead r (match r with
          | .cmd => 0
          | .result => s.result
          | .status => s.statusWord
          | .sense => s.senseWord)) :: s.trace }) ∧
    (∀ (offset : Nat) (v : Word), offset ∈ [4, 8, 12] → s.schedule = .host (.write offset 4 v) :: rest →
      step s = .next { s with schedule := rest })

/-- The fields of `STATUS` and `SENSE` read the flags they are named for, `ERR` as the codes 0 to 4 of 60_exceptions.md
R240. -/
def Obligations.StatusAndSenseFieldsReadTheFlags : Prop :=
  ∀ s : State,
    s.statusWord.getLsbD 0 = s.busy ∧ s.statusWord.getLsbD 1 = s.fault ∧ s.statusWord.getLsbD 2 = s.ovf ∧
    s.statusWord.getLsbD 3 = decide (s.evq ≠ []) ∧
    s.statusWord.extractLsb' 4 4 = (match s.err with
      | .ok => 0
      | .illegal => 1
      | .busy => 2
      | .fault => 3
      | .range => 4) ∧
    (s.evq.length ≤ 255 → (s.statusWord.extractLsb' 8 8).toNat = s.evq.length) ∧
    s.statusWord.extractLsb' 16 3 = s.pins.a ∧
    s.statusWord.getLsbD 19 = (s.cfg.irqEn && decide (s.evq ≠ [])) ∧
    s.statusWord.extractLsb' 20 4 = s.runop ∧ s.statusWord.extractLsb' 24 8 = 0 ∧
    s.senseWord.extractLsb' 0 6 = s.senseLines ∧ s.senseWord.getLsbD 6 = s.senseProbe ∧
    s.senseWord.extractLsb' 7 25 = 0

/-- A host access in the window that is not a 32-bit access at one of the four word-aligned offsets is refused. -/
def Obligations.UnsupportedAccessesAreRefused : Prop :=
  ∀ (s : State) (rest : List Turn) (offset bytes : Nat) (v : Word), offset < 16 →
    (bytes ≠ 4 ∨ offset ∉ [0, 4, 8, 12]) →
    (s.schedule = .host (.write offset bytes v) :: rest ∨ s.schedule = .host (.read offset bytes) :: rest) →
    step s = .refused (.unsupportedAccess offset bytes)

/-! ### Pseudo-instructions -/

/-- DRAW_RECT issues SET_PIXEL for exactly the pixels of the inclusive rectangle that lie on the matrix, each once and in
the given colour, rows ascending and columns ascending within a row. -/
def Obligations.DrawRectIssuesExactlyTheBlock : Prop :=
  ∀ (x1 y1 x2 y2 : Nat) (colour : BitVec 3),
    (∀ i : Instr, i ∈ drawRect x1 y1 x2 y2 colour ↔
      ∃ x y, x1 ≤ x ∧ x ≤ x2 ∧ y1 ≤ y ∧ y ≤ y2 ∧ x ≤ 11 ∧ y ≤ 11 ∧
        i = .setPixel (BitVec.ofNat 4 x) (BitVec.ofNat 4 y) colour) ∧
    (drawRect x1 y1 x2 y2 colour).Pairwise fun i j => ∀ x y x' y' : BitVec 4,
      i = .setPixel x y colour → j = .setPixel x' y' colour → y < y' ∨ (y = y' ∧ x < x')

/-- WAIT_IDLE after an accepted SELECT ends: within four reads of STATUS the host sees `BUSY = 0`, with the selected
code driven. That the sequencer makes one step between two reads, and the number of steps, are the model's choice (log
entries 2, 6 and 19). -/
def Obligations.WaitIdleEndsAfterSelect : Prop :=
  ∀ (s t : State) (ch : BitVec 4), s.busy = false → s.fault = false → s.operating = true →
    exec (.select ch) s = .next t → ∃ u, waitIdle 4 t = some u ∧ u.busy = false ∧ u.pins.a = resolve s.params ch
end

