-- ==== Sys2Proof/Laws/State.lean ====
section
/-! SUPPORT. One lemma per field for each named update of the state, all true by `rfl`, so that no proof unfolds a
record update. -/

namespace Sys2Proof.Machine

variable (s : State)

@[simp] theorem State.reject_eq (e : ErrCode) : s.reject e = s.setErr e := rfl

@[simp] theorem State.waitOut_eq : s.waitOut = s.countDown s.waitCount := rfl

@[simp] theorem State.hostRead_eq (r : HostReg) : s.hostRead r = s.observe (.hostRead r (s.regWord r)) := rfl

@[simp] theorem State.observeSample_eq (c : Fin 6) : s.observeSample c = s.observe (.sample c (s.lineLevel c)) := rfl

/-! `setFbByte` -/

@[simp] theorem State.setFbByte_params (r b : Nat) (v : Byte) : (s.setFbByte r b v).params = s.params := rfl
@[simp] theorem State.setFbByte_result (r b : Nat) (v : Byte) : (s.setFbByte r b v).result = s.result := rfl
@[simp] theorem State.setFbByte_err (r b : Nat) (v : Byte) : (s.setFbByte r b v).err = s.err := rfl
@[simp] theorem State.setFbByte_fault (r b : Nat) (v : Byte) : (s.setFbByte r b v).fault = s.fault := rfl
@[simp] theorem State.setFbByte_ovf (r b : Nat) (v : Byte) : (s.setFbByte r b v).ovf = s.ovf := rfl
@[simp] theorem State.setFbByte_senseLines (r b : Nat) (v : Byte) : (s.setFbByte r b v).senseLines = s.senseLines := rfl
@[simp] theorem State.setFbByte_senseProbe (r b : Nat) (v : Byte) : (s.setFbByte r b v).senseProbe = s.senseProbe := rfl
@[simp] theorem State.setFbByte_cfg (r b : Nat) (v : Byte) : (s.setFbByte r b v).cfg = s.cfg := rfl
@[simp] theorem State.setFbByte_fb (r b : Nat) (v : Byte) : (s.setFbByte r b v).fb = memWrite s.params.offByte s.fb (fbAddr r b) v := rfl
@[simp] theorem State.setFbByte_snap (r b : Nat) (v : Byte) : (s.setFbByte r b v).snap = s.snap := rfl
@[simp] theorem State.setFbByte_txbuf (r b : Nat) (v : Byte) : (s.setFbByte r b v).txbuf = s.txbuf := rfl
@[simp] theorem State.setFbByte_txpos (r b : Nat) (v : Byte) : (s.setFbByte r b v).txpos = s.txpos := rfl
@[simp] theorem State.setFbByte_raw (r b : Nat) (v : Byte) : (s.setFbByte r b v).raw = s.raw := rfl
@[simp] theorem State.setFbByte_prev (r b : Nat) (v : Byte) : (s.setFbByte r b v).prev = s.prev := rfl
@[simp] theorem State.setFbByte_cnt (r b : Nat) (v : Byte) : (s.setFbByte r b v).cnt = s.cnt := rfl
@[simp] theorem State.setFbByte_stable (r b : Nat) (v : Byte) : (s.setFbByte r b v).stable = s.stable := rfl
@[simp] theorem State.setFbByte_evq (r b : Nat) (v : Byte) : (s.setFbByte r b v).evq = s.evq := rfl
@[simp] theorem State.setFbByte_busy (r b : Nat) (v : Byte) : (s.setFbByte r b v).busy = s.busy := rfl
@[simp] theorem State.setFbByte_runop (r b : Nat) (v : Byte) : (s.setFbByte r b v).runop = s.runop := rfl
@[simp] theorem State.setFbByte_progress (r b : Nat) (v : Byte) : (s.setFbByte r b v).progress = s.progress := rfl
@[simp] theorem State.setFbByte_waitCount (r b : Nat) (v : Byte) : (s.setFbByte r b v).waitCount = s.waitCount := rfl
@[simp] theorem State.setFbByte_pins (r b : Nat) (v : Byte) : (s.setFbByte r b v).pins = s.pins := rfl
@[simp] theorem State.setFbByte_inputs (r b : Nat) (v : Byte) : (s.setFbByte r b v).inputs = s.inputs := rfl
@[simp] theorem State.setFbByte_resetHeld (r b : Nat) (v : Byte) : (s.setFbByte r b v).resetHeld = s.resetHeld := rfl
@[simp] theorem State.setFbByte_board (r b : Nat) (v : Byte) : (s.setFbByte r b v).board = s.board := rfl
@[simp] theorem State.setFbByte_schedule (r b : Nat) (v : Byte) : (s.setFbByte r b v).schedule = s.schedule := rfl
@[simp] theorem State.setFbByte_trace (r b : Nat) (v : Byte) : (s.setFbByte r b v).trace = s.trace := rfl
@[simp] theorem State.setFbByte_cycles (r b : Nat) (v : Byte) : (s.setFbByte r b v).cycles = s.cycles := rfl
@[simp] theorem State.setFbByte_freeDraws (r b : Nat) (v : Byte) : (s.setFbByte r b v).freeDraws = s.freeDraws := rfl

/-! `clearFb` -/

@[simp] theorem State.clearFb_params : (s.clearFb).params = s.params := rfl
@[simp] theorem State.clearFb_result : (s.clearFb).result = s.result := rfl
@[simp] theorem State.clearFb_err : (s.clearFb).err = s.err := rfl
@[simp] theorem State.clearFb_fault : (s.clearFb).fault = s.fault := rfl
@[simp] theorem State.clearFb_ovf : (s.clearFb).ovf = s.ovf := rfl
@[simp] theorem State.clearFb_senseLines : (s.clearFb).senseLines = s.senseLines := rfl
@[simp] theorem State.clearFb_senseProbe : (s.clearFb).senseProbe = s.senseProbe := rfl
@[simp] theorem State.clearFb_cfg : (s.clearFb).cfg = s.cfg := rfl
@[simp] theorem State.clearFb_fb : (s.clearFb).fb = [] := rfl
@[simp] theorem State.clearFb_snap : (s.clearFb).snap = s.snap := rfl
@[simp] theorem State.clearFb_txbuf : (s.clearFb).txbuf = s.txbuf := rfl
@[simp] theorem State.clearFb_txpos : (s.clearFb).txpos = s.txpos := rfl
@[simp] theorem State.clearFb_raw : (s.clearFb).raw = s.raw := rfl
@[simp] theorem State.clearFb_prev : (s.clearFb).prev = s.prev := rfl
@[simp] theorem State.clearFb_cnt : (s.clearFb).cnt = s.cnt := rfl
@[simp] theorem State.clearFb_stable : (s.clearFb).stable = s.stable := rfl
@[simp] theorem State.clearFb_evq : (s.clearFb).evq = s.evq := rfl
@[simp] theorem State.clearFb_busy : (s.clearFb).busy = s.busy := rfl
@[simp] theorem State.clearFb_runop : (s.clearFb).runop = s.runop := rfl
@[simp] theorem State.clearFb_progress : (s.clearFb).progress = s.progress := rfl
@[simp] theorem State.clearFb_waitCount : (s.clearFb).waitCount = s.waitCount := rfl
@[simp] theorem State.clearFb_pins : (s.clearFb).pins = s.pins := rfl
@[simp] theorem State.clearFb_inputs : (s.clearFb).inputs = s.inputs := rfl
@[simp] theorem State.clearFb_resetHeld : (s.clearFb).resetHeld = s.resetHeld := rfl
@[simp] theorem State.clearFb_board : (s.clearFb).board = s.board := rfl
@[simp] theorem State.clearFb_schedule : (s.clearFb).schedule = s.schedule := rfl
@[simp] theorem State.clearFb_trace : (s.clearFb).trace = s.trace := rfl
@[simp] theorem State.clearFb_cycles : (s.clearFb).cycles = s.cycles := rfl
@[simp] theorem State.clearFb_freeDraws : (s.clearFb).freeDraws = s.freeDraws := rfl

/-! `setResult` -/

@[simp] theorem State.setResult_params (v : Word) : (s.setResult v).params = s.params := rfl
@[simp] theorem State.setResult_result (v : Word) : (s.setResult v).result = v := rfl
@[simp] theorem State.setResult_err (v : Word) : (s.setResult v).err = s.err := rfl
@[simp] theorem State.setResult_fault (v : Word) : (s.setResult v).fault = s.fault := rfl
@[simp] theorem State.setResult_ovf (v : Word) : (s.setResult v).ovf = s.ovf := rfl
@[simp] theorem State.setResult_senseLines (v : Word) : (s.setResult v).senseLines = s.senseLines := rfl
@[simp] theorem State.setResult_senseProbe (v : Word) : (s.setResult v).senseProbe = s.senseProbe := rfl
@[simp] theorem State.setResult_cfg (v : Word) : (s.setResult v).cfg = s.cfg := rfl
@[simp] theorem State.setResult_fb (v : Word) : (s.setResult v).fb = s.fb := rfl
@[simp] theorem State.setResult_snap (v : Word) : (s.setResult v).snap = s.snap := rfl
@[simp] theorem State.setResult_txbuf (v : Word) : (s.setResult v).txbuf = s.txbuf := rfl
@[simp] theorem State.setResult_txpos (v : Word) : (s.setResult v).txpos = s.txpos := rfl
@[simp] theorem State.setResult_raw (v : Word) : (s.setResult v).raw = s.raw := rfl
@[simp] theorem State.setResult_prev (v : Word) : (s.setResult v).prev = s.prev := rfl
@[simp] theorem State.setResult_cnt (v : Word) : (s.setResult v).cnt = s.cnt := rfl
@[simp] theorem State.setResult_stable (v : Word) : (s.setResult v).stable = s.stable := rfl
@[simp] theorem State.setResult_evq (v : Word) : (s.setResult v).evq = s.evq := rfl
@[simp] theorem State.setResult_busy (v : Word) : (s.setResult v).busy = s.busy := rfl
@[simp] theorem State.setResult_runop (v : Word) : (s.setResult v).runop = s.runop := rfl
@[simp] theorem State.setResult_progress (v : Word) : (s.setResult v).progress = s.progress := rfl
@[simp] theorem State.setResult_waitCount (v : Word) : (s.setResult v).waitCount = s.waitCount := rfl
@[simp] theorem State.setResult_pins (v : Word) : (s.setResult v).pins = s.pins := rfl
@[simp] theorem State.setResult_inputs (v : Word) : (s.setResult v).inputs = s.inputs := rfl
@[simp] theorem State.setResult_resetHeld (v : Word) : (s.setResult v).resetHeld = s.resetHeld := rfl
@[simp] theorem State.setResult_board (v : Word) : (s.setResult v).board = s.board := rfl
@[simp] theorem State.setResult_schedule (v : Word) : (s.setResult v).schedule = s.schedule := rfl
@[simp] theorem State.setResult_trace (v : Word) : (s.setResult v).trace = s.trace := rfl
@[simp] theorem State.setResult_cycles (v : Word) : (s.setResult v).cycles = s.cycles := rfl
@[simp] theorem State.setResult_freeDraws (v : Word) : (s.setResult v).freeDraws = s.freeDraws := rfl

/-! `setErr` -/

@[simp] theorem State.setErr_params (e : ErrCode) : (s.setErr e).params = s.params := rfl
@[simp] theorem State.setErr_result (e : ErrCode) : (s.setErr e).result = s.result := rfl
@[simp] theorem State.setErr_err (e : ErrCode) : (s.setErr e).err = e := rfl
@[simp] theorem State.setErr_fault (e : ErrCode) : (s.setErr e).fault = s.fault := rfl
@[simp] theorem State.setErr_ovf (e : ErrCode) : (s.setErr e).ovf = s.ovf := rfl
@[simp] theorem State.setErr_senseLines (e : ErrCode) : (s.setErr e).senseLines = s.senseLines := rfl
@[simp] theorem State.setErr_senseProbe (e : ErrCode) : (s.setErr e).senseProbe = s.senseProbe := rfl
@[simp] theorem State.setErr_cfg (e : ErrCode) : (s.setErr e).cfg = s.cfg := rfl
@[simp] theorem State.setErr_fb (e : ErrCode) : (s.setErr e).fb = s.fb := rfl
@[simp] theorem State.setErr_snap (e : ErrCode) : (s.setErr e).snap = s.snap := rfl
@[simp] theorem State.setErr_txbuf (e : ErrCode) : (s.setErr e).txbuf = s.txbuf := rfl
@[simp] theorem State.setErr_txpos (e : ErrCode) : (s.setErr e).txpos = s.txpos := rfl
@[simp] theorem State.setErr_raw (e : ErrCode) : (s.setErr e).raw = s.raw := rfl
@[simp] theorem State.setErr_prev (e : ErrCode) : (s.setErr e).prev = s.prev := rfl
@[simp] theorem State.setErr_cnt (e : ErrCode) : (s.setErr e).cnt = s.cnt := rfl
@[simp] theorem State.setErr_stable (e : ErrCode) : (s.setErr e).stable = s.stable := rfl
@[simp] theorem State.setErr_evq (e : ErrCode) : (s.setErr e).evq = s.evq := rfl
@[simp] theorem State.setErr_busy (e : ErrCode) : (s.setErr e).busy = s.busy := rfl
@[simp] theorem State.setErr_runop (e : ErrCode) : (s.setErr e).runop = s.runop := rfl
@[simp] theorem State.setErr_progress (e : ErrCode) : (s.setErr e).progress = s.progress := rfl
@[simp] theorem State.setErr_waitCount (e : ErrCode) : (s.setErr e).waitCount = s.waitCount := rfl
@[simp] theorem State.setErr_pins (e : ErrCode) : (s.setErr e).pins = s.pins := rfl
@[simp] theorem State.setErr_inputs (e : ErrCode) : (s.setErr e).inputs = s.inputs := rfl
@[simp] theorem State.setErr_resetHeld (e : ErrCode) : (s.setErr e).resetHeld = s.resetHeld := rfl
@[simp] theorem State.setErr_board (e : ErrCode) : (s.setErr e).board = s.board := rfl
@[simp] theorem State.setErr_schedule (e : ErrCode) : (s.setErr e).schedule = s.schedule := rfl
@[simp] theorem State.setErr_trace (e : ErrCode) : (s.setErr e).trace = s.trace := rfl
@[simp] theorem State.setErr_cycles (e : ErrCode) : (s.setErr e).cycles = s.cycles := rfl
@[simp] theorem State.setErr_freeDraws (e : ErrCode) : (s.setErr e).freeDraws = s.freeDraws := rfl

/-! `observe` -/

@[simp] theorem State.observe_params (o : Obs) : (s.observe o).params = s.params := rfl
@[simp] theorem State.observe_result (o : Obs) : (s.observe o).result = s.result := rfl
@[simp] theorem State.observe_err (o : Obs) : (s.observe o).err = s.err := rfl
@[simp] theorem State.observe_fault (o : Obs) : (s.observe o).fault = s.fault := rfl
@[simp] theorem State.observe_ovf (o : Obs) : (s.observe o).ovf = s.ovf := rfl
@[simp] theorem State.observe_senseLines (o : Obs) : (s.observe o).senseLines = s.senseLines := rfl
@[simp] theorem State.observe_senseProbe (o : Obs) : (s.observe o).senseProbe = s.senseProbe := rfl
@[simp] theorem State.observe_cfg (o : Obs) : (s.observe o).cfg = s.cfg := rfl
@[simp] theorem State.observe_fb (o : Obs) : (s.observe o).fb = s.fb := rfl
@[simp] theorem State.observe_snap (o : Obs) : (s.observe o).snap = s.snap := rfl
@[simp] theorem State.observe_txbuf (o : Obs) : (s.observe o).txbuf = s.txbuf := rfl
@[simp] theorem State.observe_txpos (o : Obs) : (s.observe o).txpos = s.txpos := rfl
@[simp] theorem State.observe_raw (o : Obs) : (s.observe o).raw = s.raw := rfl
@[simp] theorem State.observe_prev (o : Obs) : (s.observe o).prev = s.prev := rfl
@[simp] theorem State.observe_cnt (o : Obs) : (s.observe o).cnt = s.cnt := rfl
@[simp] theorem State.observe_stable (o : Obs) : (s.observe o).stable = s.stable := rfl
@[simp] theorem State.observe_evq (o : Obs) : (s.observe o).evq = s.evq := rfl
@[simp] theorem State.observe_busy (o : Obs) : (s.observe o).busy = s.busy := rfl
@[simp] theorem State.observe_runop (o : Obs) : (s.observe o).runop = s.runop := rfl
@[simp] theorem State.observe_progress (o : Obs) : (s.observe o).progress = s.progress := rfl
@[simp] theorem State.observe_waitCount (o : Obs) : (s.observe o).waitCount = s.waitCount := rfl
@[simp] theorem State.observe_pins (o : Obs) : (s.observe o).pins = s.pins := rfl
@[simp] theorem State.observe_inputs (o : Obs) : (s.observe o).inputs = s.inputs := rfl
@[simp] theorem State.observe_resetHeld (o : Obs) : (s.observe o).resetHeld = s.resetHeld := rfl
@[simp] theorem State.observe_board (o : Obs) : (s.observe o).board = s.board := rfl
@[simp] theorem State.observe_schedule (o : Obs) : (s.observe o).schedule = s.schedule := rfl
@[simp] theorem State.observe_trace (o : Obs) : (s.observe o).trace = (s.cycles, o) :: s.trace := rfl
@[simp] theorem State.observe_cycles (o : Obs) : (s.observe o).cycles = s.cycles := rfl
@[simp] theorem State.observe_freeDraws (o : Obs) : (s.observe o).freeDraws = s.freeDraws := rfl

/-! `elapse` -/

@[simp] theorem State.elapse_params (n : Nat) : (s.elapse n).params = s.params := rfl
@[simp] theorem State.elapse_result (n : Nat) : (s.elapse n).result = s.result := rfl
@[simp] theorem State.elapse_err (n : Nat) : (s.elapse n).err = s.err := rfl
@[simp] theorem State.elapse_fault (n : Nat) : (s.elapse n).fault = s.fault := rfl
@[simp] theorem State.elapse_ovf (n : Nat) : (s.elapse n).ovf = s.ovf := rfl
@[simp] theorem State.elapse_senseLines (n : Nat) : (s.elapse n).senseLines = s.senseLines := rfl
@[simp] theorem State.elapse_senseProbe (n : Nat) : (s.elapse n).senseProbe = s.senseProbe := rfl
@[simp] theorem State.elapse_cfg (n : Nat) : (s.elapse n).cfg = s.cfg := rfl
@[simp] theorem State.elapse_fb (n : Nat) : (s.elapse n).fb = s.fb := rfl
@[simp] theorem State.elapse_snap (n : Nat) : (s.elapse n).snap = s.snap := rfl
@[simp] theorem State.elapse_txbuf (n : Nat) : (s.elapse n).txbuf = s.txbuf := rfl
@[simp] theorem State.elapse_txpos (n : Nat) : (s.elapse n).txpos = s.txpos := rfl
@[simp] theorem State.elapse_raw (n : Nat) : (s.elapse n).raw = s.raw := rfl
@[simp] theorem State.elapse_prev (n : Nat) : (s.elapse n).prev = s.prev := rfl
@[simp] theorem State.elapse_cnt (n : Nat) : (s.elapse n).cnt = s.cnt := rfl
@[simp] theorem State.elapse_stable (n : Nat) : (s.elapse n).stable = s.stable := rfl
@[simp] theorem State.elapse_evq (n : Nat) : (s.elapse n).evq = s.evq := rfl
@[simp] theorem State.elapse_busy (n : Nat) : (s.elapse n).busy = s.busy := rfl
@[simp] theorem State.elapse_runop (n : Nat) : (s.elapse n).runop = s.runop := rfl
@[simp] theorem State.elapse_progress (n : Nat) : (s.elapse n).progress = s.progress := rfl
@[simp] theorem State.elapse_waitCount (n : Nat) : (s.elapse n).waitCount = s.waitCount := rfl
@[simp] theorem State.elapse_pins (n : Nat) : (s.elapse n).pins = s.pins := rfl
@[simp] theorem State.elapse_inputs (n : Nat) : (s.elapse n).inputs = s.inputs := rfl
@[simp] theorem State.elapse_resetHeld (n : Nat) : (s.elapse n).resetHeld = s.resetHeld := rfl
@[simp] theorem State.elapse_board (n : Nat) : (s.elapse n).board = s.board := rfl
@[simp] theorem State.elapse_schedule (n : Nat) : (s.elapse n).schedule = s.schedule := rfl
@[simp] theorem State.elapse_trace (n : Nat) : (s.elapse n).trace = s.trace := rfl
@[simp] theorem State.elapse_cycles (n : Nat) : (s.elapse n).cycles = s.cycles + n := rfl
@[simp] theorem State.elapse_freeDraws (n : Nat) : (s.elapse n).freeDraws = s.freeDraws := rfl

/-! `driveAddr` -/

@[simp] theorem State.driveAddr_params (a : BitVec 3) : (s.driveAddr a).params = s.params := rfl
@[simp] theorem State.driveAddr_result (a : BitVec 3) : (s.driveAddr a).result = s.result := rfl
@[simp] theorem State.driveAddr_err (a : BitVec 3) : (s.driveAddr a).err = s.err := rfl
@[simp] theorem State.driveAddr_fault (a : BitVec 3) : (s.driveAddr a).fault = s.fault := rfl
@[simp] theorem State.driveAddr_ovf (a : BitVec 3) : (s.driveAddr a).ovf = s.ovf := rfl
@[simp] theorem State.driveAddr_senseLines (a : BitVec 3) : (s.driveAddr a).senseLines = s.senseLines := rfl
@[simp] theorem State.driveAddr_senseProbe (a : BitVec 3) : (s.driveAddr a).senseProbe = s.senseProbe := rfl
@[simp] theorem State.driveAddr_cfg (a : BitVec 3) : (s.driveAddr a).cfg = s.cfg := rfl
@[simp] theorem State.driveAddr_fb (a : BitVec 3) : (s.driveAddr a).fb = s.fb := rfl
@[simp] theorem State.driveAddr_snap (a : BitVec 3) : (s.driveAddr a).snap = s.snap := rfl
@[simp] theorem State.driveAddr_txbuf (a : BitVec 3) : (s.driveAddr a).txbuf = s.txbuf := rfl
@[simp] theorem State.driveAddr_txpos (a : BitVec 3) : (s.driveAddr a).txpos = s.txpos := rfl
@[simp] theorem State.driveAddr_raw (a : BitVec 3) : (s.driveAddr a).raw = s.raw := rfl
@[simp] theorem State.driveAddr_prev (a : BitVec 3) : (s.driveAddr a).prev = s.prev := rfl
@[simp] theorem State.driveAddr_cnt (a : BitVec 3) : (s.driveAddr a).cnt = s.cnt := rfl
@[simp] theorem State.driveAddr_stable (a : BitVec 3) : (s.driveAddr a).stable = s.stable := rfl
@[simp] theorem State.driveAddr_evq (a : BitVec 3) : (s.driveAddr a).evq = s.evq := rfl
@[simp] theorem State.driveAddr_busy (a : BitVec 3) : (s.driveAddr a).busy = s.busy := rfl
@[simp] theorem State.driveAddr_runop (a : BitVec 3) : (s.driveAddr a).runop = s.runop := rfl
@[simp] theorem State.driveAddr_progress (a : BitVec 3) : (s.driveAddr a).progress = s.progress := rfl
@[simp] theorem State.driveAddr_waitCount (a : BitVec 3) : (s.driveAddr a).waitCount = s.waitCount := rfl
@[simp] theorem State.driveAddr_pins (a : BitVec 3) : (s.driveAddr a).pins = { s.pins with a := a } := rfl
@[simp] theorem State.driveAddr_inputs (a : BitVec 3) : (s.driveAddr a).inputs = s.inputs := rfl
@[simp] theorem State.driveAddr_resetHeld (a : BitVec 3) : (s.driveAddr a).resetHeld = s.resetHeld := rfl
@[simp] theorem State.driveAddr_board (a : BitVec 3) : (s.driveAddr a).board = s.board := rfl
@[simp] theorem State.driveAddr_schedule (a : BitVec 3) : (s.driveAddr a).schedule = s.schedule := rfl
@[simp] theorem State.driveAddr_trace (a : BitVec 3) : (s.driveAddr a).trace = (s.cycles, .addr a) :: s.trace := rfl
@[simp] theorem State.driveAddr_cycles (a : BitVec 3) : (s.driveAddr a).cycles = s.cycles := rfl
@[simp] theorem State.driveAddr_freeDraws (a : BitVec 3) : (s.driveAddr a).freeDraws = s.freeDraws := rfl

/-! `driveSer` -/

@[simp] theorem State.driveSer_params (v : Bool) : (s.driveSer v).params = s.params := rfl
@[simp] theorem State.driveSer_result (v : Bool) : (s.driveSer v).result = s.result := rfl
@[simp] theorem State.driveSer_err (v : Bool) : (s.driveSer v).err = s.err := rfl
@[simp] theorem State.driveSer_fault (v : Bool) : (s.driveSer v).fault = s.fault := rfl
@[simp] theorem State.driveSer_ovf (v : Bool) : (s.driveSer v).ovf = s.ovf := rfl
@[simp] theorem State.driveSer_senseLines (v : Bool) : (s.driveSer v).senseLines = s.senseLines := rfl
@[simp] theorem State.driveSer_senseProbe (v : Bool) : (s.driveSer v).senseProbe = s.senseProbe := rfl
@[simp] theorem State.driveSer_cfg (v : Bool) : (s.driveSer v).cfg = s.cfg := rfl
@[simp] theorem State.driveSer_fb (v : Bool) : (s.driveSer v).fb = s.fb := rfl
@[simp] theorem State.driveSer_snap (v : Bool) : (s.driveSer v).snap = s.snap := rfl
@[simp] theorem State.driveSer_txbuf (v : Bool) : (s.driveSer v).txbuf = s.txbuf := rfl
@[simp] theorem State.driveSer_txpos (v : Bool) : (s.driveSer v).txpos = s.txpos := rfl
@[simp] theorem State.driveSer_raw (v : Bool) : (s.driveSer v).raw = s.raw := rfl
@[simp] theorem State.driveSer_prev (v : Bool) : (s.driveSer v).prev = s.prev := rfl
@[simp] theorem State.driveSer_cnt (v : Bool) : (s.driveSer v).cnt = s.cnt := rfl
@[simp] theorem State.driveSer_stable (v : Bool) : (s.driveSer v).stable = s.stable := rfl
@[simp] theorem State.driveSer_evq (v : Bool) : (s.driveSer v).evq = s.evq := rfl
@[simp] theorem State.driveSer_busy (v : Bool) : (s.driveSer v).busy = s.busy := rfl
@[simp] theorem State.driveSer_runop (v : Bool) : (s.driveSer v).runop = s.runop := rfl
@[simp] theorem State.driveSer_progress (v : Bool) : (s.driveSer v).progress = s.progress := rfl
@[simp] theorem State.driveSer_waitCount (v : Bool) : (s.driveSer v).waitCount = s.waitCount := rfl
@[simp] theorem State.driveSer_pins (v : Bool) : (s.driveSer v).pins = { s.pins with ser := v } := rfl
@[simp] theorem State.driveSer_inputs (v : Bool) : (s.driveSer v).inputs = s.inputs := rfl
@[simp] theorem State.driveSer_resetHeld (v : Bool) : (s.driveSer v).resetHeld = s.resetHeld := rfl
@[simp] theorem State.driveSer_board (v : Bool) : (s.driveSer v).board = s.board := rfl
@[simp] theorem State.driveSer_schedule (v : Bool) : (s.driveSer v).schedule = s.schedule := rfl
@[simp] theorem State.driveSer_trace (v : Bool) : (s.driveSer v).trace = (s.cycles, .ser v) :: s.trace := rfl
@[simp] theorem State.driveSer_cycles (v : Bool) : (s.driveSer v).cycles = s.cycles := rfl
@[simp] theorem State.driveSer_freeDraws (v : Bool) : (s.driveSer v).freeDraws = s.freeDraws := rfl

/-! `driveSck` -/

@[simp] theorem State.driveSck_params (v : Bool) : (s.driveSck v).params = s.params := rfl
@[simp] theorem State.driveSck_result (v : Bool) : (s.driveSck v).result = s.result := rfl
@[simp] theorem State.driveSck_err (v : Bool) : (s.driveSck v).err = s.err := rfl
@[simp] theorem State.driveSck_fault (v : Bool) : (s.driveSck v).fault = s.fault := rfl
@[simp] theorem State.driveSck_ovf (v : Bool) : (s.driveSck v).ovf = s.ovf := rfl
@[simp] theorem State.driveSck_senseLines (v : Bool) : (s.driveSck v).senseLines = s.senseLines := rfl
@[simp] theorem State.driveSck_senseProbe (v : Bool) : (s.driveSck v).senseProbe = s.senseProbe := rfl
@[simp] theorem State.driveSck_cfg (v : Bool) : (s.driveSck v).cfg = s.cfg := rfl
@[simp] theorem State.driveSck_fb (v : Bool) : (s.driveSck v).fb = s.fb := rfl
@[simp] theorem State.driveSck_snap (v : Bool) : (s.driveSck v).snap = s.snap := rfl
@[simp] theorem State.driveSck_txbuf (v : Bool) : (s.driveSck v).txbuf = s.txbuf := rfl
@[simp] theorem State.driveSck_txpos (v : Bool) : (s.driveSck v).txpos = s.txpos := rfl
@[simp] theorem State.driveSck_raw (v : Bool) : (s.driveSck v).raw = s.raw := rfl
@[simp] theorem State.driveSck_prev (v : Bool) : (s.driveSck v).prev = s.prev := rfl
@[simp] theorem State.driveSck_cnt (v : Bool) : (s.driveSck v).cnt = s.cnt := rfl
@[simp] theorem State.driveSck_stable (v : Bool) : (s.driveSck v).stable = s.stable := rfl
@[simp] theorem State.driveSck_evq (v : Bool) : (s.driveSck v).evq = s.evq := rfl
@[simp] theorem State.driveSck_busy (v : Bool) : (s.driveSck v).busy = s.busy := rfl
@[simp] theorem State.driveSck_runop (v : Bool) : (s.driveSck v).runop = s.runop := rfl
@[simp] theorem State.driveSck_progress (v : Bool) : (s.driveSck v).progress = s.progress := rfl
@[simp] theorem State.driveSck_waitCount (v : Bool) : (s.driveSck v).waitCount = s.waitCount := rfl
@[simp] theorem State.driveSck_pins (v : Bool) : (s.driveSck v).pins = { s.pins with sck := v } := rfl
@[simp] theorem State.driveSck_inputs (v : Bool) : (s.driveSck v).inputs = s.inputs := rfl
@[simp] theorem State.driveSck_resetHeld (v : Bool) : (s.driveSck v).resetHeld = s.resetHeld := rfl
@[simp] theorem State.driveSck_board (v : Bool) : (s.driveSck v).board = s.board := rfl
@[simp] theorem State.driveSck_schedule (v : Bool) : (s.driveSck v).schedule = s.schedule := rfl
@[simp] theorem State.driveSck_trace (v : Bool) : (s.driveSck v).trace = (s.cycles, .sck v) :: s.trace := rfl
@[simp] theorem State.driveSck_cycles (v : Bool) : (s.driveSck v).cycles = s.cycles := rfl
@[simp] theorem State.driveSck_freeDraws (v : Bool) : (s.driveSck v).freeDraws = s.freeDraws := rfl

/-! `driveLat` -/

@[simp] theorem State.driveLat_params (v : Bool) : (s.driveLat v).params = s.params := rfl
@[simp] theorem State.driveLat_result (v : Bool) : (s.driveLat v).result = s.result := rfl
@[simp] theorem State.driveLat_err (v : Bool) : (s.driveLat v).err = s.err := rfl
@[simp] theorem State.driveLat_fault (v : Bool) : (s.driveLat v).fault = s.fault := rfl
@[simp] theorem State.driveLat_ovf (v : Bool) : (s.driveLat v).ovf = s.ovf := rfl
@[simp] theorem State.driveLat_senseLines (v : Bool) : (s.driveLat v).senseLines = s.senseLines := rfl
@[simp] theorem State.driveLat_senseProbe (v : Bool) : (s.driveLat v).senseProbe = s.senseProbe := rfl
@[simp] theorem State.driveLat_cfg (v : Bool) : (s.driveLat v).cfg = s.cfg := rfl
@[simp] theorem State.driveLat_fb (v : Bool) : (s.driveLat v).fb = s.fb := rfl
@[simp] theorem State.driveLat_snap (v : Bool) : (s.driveLat v).snap = s.snap := rfl
@[simp] theorem State.driveLat_txbuf (v : Bool) : (s.driveLat v).txbuf = s.txbuf := rfl
@[simp] theorem State.driveLat_txpos (v : Bool) : (s.driveLat v).txpos = s.txpos := rfl
@[simp] theorem State.driveLat_raw (v : Bool) : (s.driveLat v).raw = s.raw := rfl
@[simp] theorem State.driveLat_prev (v : Bool) : (s.driveLat v).prev = s.prev := rfl
@[simp] theorem State.driveLat_cnt (v : Bool) : (s.driveLat v).cnt = s.cnt := rfl
@[simp] theorem State.driveLat_stable (v : Bool) : (s.driveLat v).stable = s.stable := rfl
@[simp] theorem State.driveLat_evq (v : Bool) : (s.driveLat v).evq = s.evq := rfl
@[simp] theorem State.driveLat_busy (v : Bool) : (s.driveLat v).busy = s.busy := rfl
@[simp] theorem State.driveLat_runop (v : Bool) : (s.driveLat v).runop = s.runop := rfl
@[simp] theorem State.driveLat_progress (v : Bool) : (s.driveLat v).progress = s.progress := rfl
@[simp] theorem State.driveLat_waitCount (v : Bool) : (s.driveLat v).waitCount = s.waitCount := rfl
@[simp] theorem State.driveLat_pins (v : Bool) : (s.driveLat v).pins = { s.pins with lat := v } := rfl
@[simp] theorem State.driveLat_inputs (v : Bool) : (s.driveLat v).inputs = s.inputs := rfl
@[simp] theorem State.driveLat_resetHeld (v : Bool) : (s.driveLat v).resetHeld = s.resetHeld := rfl
@[simp] theorem State.driveLat_board (v : Bool) : (s.driveLat v).board = s.board := rfl
@[simp] theorem State.driveLat_schedule (v : Bool) : (s.driveLat v).schedule = s.schedule := rfl
@[simp] theorem State.driveLat_trace (v : Bool) : (s.driveLat v).trace = (s.cycles, .lat v) :: s.trace := rfl
@[simp] theorem State.driveLat_cycles (v : Bool) : (s.driveLat v).cycles = s.cycles := rfl
@[simp] theorem State.driveLat_freeDraws (v : Bool) : (s.driveLat v).freeDraws = s.freeDraws := rfl

/-! `boardShift` -/

@[simp] theorem State.boardShift_params : (s.boardShift).params = s.params := rfl
@[simp] theorem State.boardShift_result : (s.boardShift).result = s.result := rfl
@[simp] theorem State.boardShift_err : (s.boardShift).err = s.err := rfl
@[simp] theorem State.boardShift_fault : (s.boardShift).fault = s.fault := rfl
@[simp] theorem State.boardShift_ovf : (s.boardShift).ovf = s.ovf := rfl
@[simp] theorem State.boardShift_senseLines : (s.boardShift).senseLines = s.senseLines := rfl
@[simp] theorem State.boardShift_senseProbe : (s.boardShift).senseProbe = s.senseProbe := rfl
@[simp] theorem State.boardShift_cfg : (s.boardShift).cfg = s.cfg := rfl
@[simp] theorem State.boardShift_fb : (s.boardShift).fb = s.fb := rfl
@[simp] theorem State.boardShift_snap : (s.boardShift).snap = s.snap := rfl
@[simp] theorem State.boardShift_txbuf : (s.boardShift).txbuf = s.txbuf := rfl
@[simp] theorem State.boardShift_txpos : (s.boardShift).txpos = s.txpos := rfl
@[simp] theorem State.boardShift_raw : (s.boardShift).raw = s.raw := rfl
@[simp] theorem State.boardShift_prev : (s.boardShift).prev = s.prev := rfl
@[simp] theorem State.boardShift_cnt : (s.boardShift).cnt = s.cnt := rfl
@[simp] theorem State.boardShift_stable : (s.boardShift).stable = s.stable := rfl
@[simp] theorem State.boardShift_evq : (s.boardShift).evq = s.evq := rfl
@[simp] theorem State.boardShift_busy : (s.boardShift).busy = s.busy := rfl
@[simp] theorem State.boardShift_runop : (s.boardShift).runop = s.runop := rfl
@[simp] theorem State.boardShift_progress : (s.boardShift).progress = s.progress := rfl
@[simp] theorem State.boardShift_waitCount : (s.boardShift).waitCount = s.waitCount := rfl
@[simp] theorem State.boardShift_pins : (s.boardShift).pins = s.pins := rfl
@[simp] theorem State.boardShift_inputs : (s.boardShift).inputs = s.inputs := rfl
@[simp] theorem State.boardShift_resetHeld : (s.boardShift).resetHeld = s.resetHeld := rfl
@[simp] theorem State.boardShift_board : (s.boardShift).board = { s.board with shifted := s.board.shifted ++ [s.pins.ser] } := rfl
@[simp] theorem State.boardShift_schedule : (s.boardShift).schedule = s.schedule := rfl
@[simp] theorem State.boardShift_trace : (s.boardShift).trace = s.trace := rfl
@[simp] theorem State.boardShift_cycles : (s.boardShift).cycles = s.cycles := rfl
@[simp] theorem State.boardShift_freeDraws : (s.boardShift).freeDraws = s.freeDraws := rfl

/-! `boardLatch` -/

@[simp] theorem State.boardLatch_params : (s.boardLatch).params = s.params := rfl
@[simp] theorem State.boardLatch_result : (s.boardLatch).result = s.result := rfl
@[simp] theorem State.boardLatch_err : (s.boardLatch).err = s.err := rfl
@[simp] theorem State.boardLatch_fault : (s.boardLatch).fault = s.fault := rfl
@[simp] theorem State.boardLatch_ovf : (s.boardLatch).ovf = s.ovf := rfl
@[simp] theorem State.boardLatch_senseLines : (s.boardLatch).senseLines = s.senseLines := rfl
@[simp] theorem State.boardLatch_senseProbe : (s.boardLatch).senseProbe = s.senseProbe := rfl
@[simp] theorem State.boardLatch_cfg : (s.boardLatch).cfg = s.cfg := rfl
@[simp] theorem State.boardLatch_fb : (s.boardLatch).fb = s.fb := rfl
@[simp] theorem State.boardLatch_snap : (s.boardLatch).snap = s.snap := rfl
@[simp] theorem State.boardLatch_txbuf : (s.boardLatch).txbuf = s.txbuf := rfl
@[simp] theorem State.boardLatch_txpos : (s.boardLatch).txpos = s.txpos := rfl
@[simp] theorem State.boardLatch_raw : (s.boardLatch).raw = s.raw := rfl
@[simp] theorem State.boardLatch_prev : (s.boardLatch).prev = s.prev := rfl
@[simp] theorem State.boardLatch_cnt : (s.boardLatch).cnt = s.cnt := rfl
@[simp] theorem State.boardLatch_stable : (s.boardLatch).stable = s.stable := rfl
@[simp] theorem State.boardLatch_evq : (s.boardLatch).evq = s.evq := rfl
@[simp] theorem State.boardLatch_busy : (s.boardLatch).busy = s.busy := rfl
@[simp] theorem State.boardLatch_runop : (s.boardLatch).runop = s.runop := rfl
@[simp] theorem State.boardLatch_progress : (s.boardLatch).progress = s.progress := rfl
@[simp] theorem State.boardLatch_waitCount : (s.boardLatch).waitCount = s.waitCount := rfl
@[simp] theorem State.boardLatch_pins : (s.boardLatch).pins = s.pins := rfl
@[simp] theorem State.boardLatch_inputs : (s.boardLatch).inputs = s.inputs := rfl
@[simp] theorem State.boardLatch_resetHeld : (s.boardLatch).resetHeld = s.resetHeld := rfl
@[simp] theorem State.boardLatch_board : (s.boardLatch).board = { shifted := [], latched := s.txbuf } := rfl
@[simp] theorem State.boardLatch_schedule : (s.boardLatch).schedule = s.schedule := rfl
@[simp] theorem State.boardLatch_trace : (s.boardLatch).trace = s.trace := rfl
@[simp] theorem State.boardLatch_cycles : (s.boardLatch).cycles = s.cycles := rfl
@[simp] theorem State.boardLatch_freeDraws : (s.boardLatch).freeDraws = s.freeDraws := rfl

/-! `forgetShifted` -/

@[simp] theorem State.forgetShifted_params : (s.forgetShifted).params = s.params := rfl
@[simp] theorem State.forgetShifted_result : (s.forgetShifted).result = s.result := rfl
@[simp] theorem State.forgetShifted_err : (s.forgetShifted).err = s.err := rfl
@[simp] theorem State.forgetShifted_fault : (s.forgetShifted).fault = s.fault := rfl
@[simp] theorem State.forgetShifted_ovf : (s.forgetShifted).ovf = s.ovf := rfl
@[simp] theorem State.forgetShifted_senseLines : (s.forgetShifted).senseLines = s.senseLines := rfl
@[simp] theorem State.forgetShifted_senseProbe : (s.forgetShifted).senseProbe = s.senseProbe := rfl
@[simp] theorem State.forgetShifted_cfg : (s.forgetShifted).cfg = s.cfg := rfl
@[simp] theorem State.forgetShifted_fb : (s.forgetShifted).fb = s.fb := rfl
@[simp] theorem State.forgetShifted_snap : (s.forgetShifted).snap = s.snap := rfl
@[simp] theorem State.forgetShifted_txbuf : (s.forgetShifted).txbuf = s.txbuf := rfl
@[simp] theorem State.forgetShifted_txpos : (s.forgetShifted).txpos = s.txpos := rfl
@[simp] theorem State.forgetShifted_raw : (s.forgetShifted).raw = s.raw := rfl
@[simp] theorem State.forgetShifted_prev : (s.forgetShifted).prev = s.prev := rfl
@[simp] theorem State.forgetShifted_cnt : (s.forgetShifted).cnt = s.cnt := rfl
@[simp] theorem State.forgetShifted_stable : (s.forgetShifted).stable = s.stable := rfl
@[simp] theorem State.forgetShifted_evq : (s.forgetShifted).evq = s.evq := rfl
@[simp] theorem State.forgetShifted_busy : (s.forgetShifted).busy = s.busy := rfl
@[simp] theorem State.forgetShifted_runop : (s.forgetShifted).runop = s.runop := rfl
@[simp] theorem State.forgetShifted_progress : (s.forgetShifted).progress = s.progress := rfl
@[simp] theorem State.forgetShifted_waitCount : (s.forgetShifted).waitCount = s.waitCount := rfl
@[simp] theorem State.forgetShifted_pins : (s.forgetShifted).pins = s.pins := rfl
@[simp] theorem State.forgetShifted_inputs : (s.forgetShifted).inputs = s.inputs := rfl
@[simp] theorem State.forgetShifted_resetHeld : (s.forgetShifted).resetHeld = s.resetHeld := rfl
@[simp] theorem State.forgetShifted_board : (s.forgetShifted).board = { s.board with shifted := Config.shiftStage s.freeDraws } := rfl
@[simp] theorem State.forgetShifted_schedule : (s.forgetShifted).schedule = s.schedule := rfl
@[simp] theorem State.forgetShifted_trace : (s.forgetShifted).trace = s.trace := rfl
@[simp] theorem State.forgetShifted_cycles : (s.forgetShifted).cycles = s.cycles := rfl
@[simp] theorem State.forgetShifted_freeDraws : (s.forgetShifted).freeDraws = s.freeDraws + 1 := rfl

/-! `loadWait` -/

@[simp] theorem State.loadWait_params (n : Nat) : (s.loadWait n).params = s.params := rfl
@[simp] theorem State.loadWait_result (n : Nat) : (s.loadWait n).result = s.result := rfl
@[simp] theorem State.loadWait_err (n : Nat) : (s.loadWait n).err = s.err := rfl
@[simp] theorem State.loadWait_fault (n : Nat) : (s.loadWait n).fault = s.fault := rfl
@[simp] theorem State.loadWait_ovf (n : Nat) : (s.loadWait n).ovf = s.ovf := rfl
@[simp] theorem State.loadWait_senseLines (n : Nat) : (s.loadWait n).senseLines = s.senseLines := rfl
@[simp] theorem State.loadWait_senseProbe (n : Nat) : (s.loadWait n).senseProbe = s.senseProbe := rfl
@[simp] theorem State.loadWait_cfg (n : Nat) : (s.loadWait n).cfg = s.cfg := rfl
@[simp] theorem State.loadWait_fb (n : Nat) : (s.loadWait n).fb = s.fb := rfl
@[simp] theorem State.loadWait_snap (n : Nat) : (s.loadWait n).snap = s.snap := rfl
@[simp] theorem State.loadWait_txbuf (n : Nat) : (s.loadWait n).txbuf = s.txbuf := rfl
@[simp] theorem State.loadWait_txpos (n : Nat) : (s.loadWait n).txpos = s.txpos := rfl
@[simp] theorem State.loadWait_raw (n : Nat) : (s.loadWait n).raw = s.raw := rfl
@[simp] theorem State.loadWait_prev (n : Nat) : (s.loadWait n).prev = s.prev := rfl
@[simp] theorem State.loadWait_cnt (n : Nat) : (s.loadWait n).cnt = s.cnt := rfl
@[simp] theorem State.loadWait_stable (n : Nat) : (s.loadWait n).stable = s.stable := rfl
@[simp] theorem State.loadWait_evq (n : Nat) : (s.loadWait n).evq = s.evq := rfl
@[simp] theorem State.loadWait_busy (n : Nat) : (s.loadWait n).busy = s.busy := rfl
@[simp] theorem State.loadWait_runop (n : Nat) : (s.loadWait n).runop = s.runop := rfl
@[simp] theorem State.loadWait_progress (n : Nat) : (s.loadWait n).progress = s.progress := rfl
@[simp] theorem State.loadWait_waitCount (n : Nat) : (s.loadWait n).waitCount = n := rfl
@[simp] theorem State.loadWait_pins (n : Nat) : (s.loadWait n).pins = s.pins := rfl
@[simp] theorem State.loadWait_inputs (n : Nat) : (s.loadWait n).inputs = s.inputs := rfl
@[simp] theorem State.loadWait_resetHeld (n : Nat) : (s.loadWait n).resetHeld = s.resetHeld := rfl
@[simp] theorem State.loadWait_board (n : Nat) : (s.loadWait n).board = s.board := rfl
@[simp] theorem State.loadWait_schedule (n : Nat) : (s.loadWait n).schedule = s.schedule := rfl
@[simp] theorem State.loadWait_trace (n : Nat) : (s.loadWait n).trace = s.trace := rfl
@[simp] theorem State.loadWait_cycles (n : Nat) : (s.loadWait n).cycles = s.cycles := rfl
@[simp] theorem State.loadWait_freeDraws (n : Nat) : (s.loadWait n).freeDraws = s.freeDraws := rfl

/-! `countDown` -/

@[simp] theorem State.countDown_params (n : Nat) : (s.countDown n).params = s.params := rfl
@[simp] theorem State.countDown_result (n : Nat) : (s.countDown n).result = s.result := rfl
@[simp] theorem State.countDown_err (n : Nat) : (s.countDown n).err = s.err := rfl
@[simp] theorem State.countDown_fault (n : Nat) : (s.countDown n).fault = s.fault := rfl
@[simp] theorem State.countDown_ovf (n : Nat) : (s.countDown n).ovf = s.ovf := rfl
@[simp] theorem State.countDown_senseLines (n : Nat) : (s.countDown n).senseLines = s.senseLines := rfl
@[simp] theorem State.countDown_senseProbe (n : Nat) : (s.countDown n).senseProbe = s.senseProbe := rfl
@[simp] theorem State.countDown_cfg (n : Nat) : (s.countDown n).cfg = s.cfg := rfl
@[simp] theorem State.countDown_fb (n : Nat) : (s.countDown n).fb = s.fb := rfl
@[simp] theorem State.countDown_snap (n : Nat) : (s.countDown n).snap = s.snap := rfl
@[simp] theorem State.countDown_txbuf (n : Nat) : (s.countDown n).txbuf = s.txbuf := rfl
@[simp] theorem State.countDown_txpos (n : Nat) : (s.countDown n).txpos = s.txpos := rfl
@[simp] theorem State.countDown_raw (n : Nat) : (s.countDown n).raw = s.raw := rfl
@[simp] theorem State.countDown_prev (n : Nat) : (s.countDown n).prev = s.prev := rfl
@[simp] theorem State.countDown_cnt (n : Nat) : (s.countDown n).cnt = s.cnt := rfl
@[simp] theorem State.countDown_stable (n : Nat) : (s.countDown n).stable = s.stable := rfl
@[simp] theorem State.countDown_evq (n : Nat) : (s.countDown n).evq = s.evq := rfl
@[simp] theorem State.countDown_busy (n : Nat) : (s.countDown n).busy = s.busy := rfl
@[simp] theorem State.countDown_runop (n : Nat) : (s.countDown n).runop = s.runop := rfl
@[simp] theorem State.countDown_progress (n : Nat) : (s.countDown n).progress = s.progress := rfl
@[simp] theorem State.countDown_waitCount (n : Nat) : (s.countDown n).waitCount = s.waitCount - n := rfl
@[simp] theorem State.countDown_pins (n : Nat) : (s.countDown n).pins = s.pins := rfl
@[simp] theorem State.countDown_inputs (n : Nat) : (s.countDown n).inputs = s.inputs := rfl
@[simp] theorem State.countDown_resetHeld (n : Nat) : (s.countDown n).resetHeld = s.resetHeld := rfl
@[simp] theorem State.countDown_board (n : Nat) : (s.countDown n).board = s.board := rfl
@[simp] theorem State.countDown_schedule (n : Nat) : (s.countDown n).schedule = s.schedule := rfl
@[simp] theorem State.countDown_trace (n : Nat) : (s.countDown n).trace = s.trace := rfl
@[simp] theorem State.countDown_cycles (n : Nat) : (s.countDown n).cycles = s.cycles + n := rfl
@[simp] theorem State.countDown_freeDraws (n : Nat) : (s.countDown n).freeDraws = s.freeDraws := rfl

/-! `startLong` -/

@[simp] theorem State.startLong_params (op : BitVec 4) (l : List BusStep) : (s.startLong op l).params = s.params := rfl
@[simp] theorem State.startLong_result (op : BitVec 4) (l : List BusStep) : (s.startLong op l).result = s.result := rfl
@[simp] theorem State.startLong_err (op : BitVec 4) (l : List BusStep) : (s.startLong op l).err = s.err := rfl
@[simp] theorem State.startLong_fault (op : BitVec 4) (l : List BusStep) : (s.startLong op l).fault = s.fault := rfl
@[simp] theorem State.startLong_ovf (op : BitVec 4) (l : List BusStep) : (s.startLong op l).ovf = s.ovf := rfl
@[simp] theorem State.startLong_senseLines (op : BitVec 4) (l : List BusStep) : (s.startLong op l).senseLines = s.senseLines := rfl
@[simp] theorem State.startLong_senseProbe (op : BitVec 4) (l : List BusStep) : (s.startLong op l).senseProbe = s.senseProbe := rfl
@[simp] theorem State.startLong_cfg (op : BitVec 4) (l : List BusStep) : (s.startLong op l).cfg = s.cfg := rfl
@[simp] theorem State.startLong_fb (op : BitVec 4) (l : List BusStep) : (s.startLong op l).fb = s.fb := rfl
@[simp] theorem State.startLong_snap (op : BitVec 4) (l : List BusStep) : (s.startLong op l).snap = s.snap := rfl
@[simp] theorem State.startLong_txbuf (op : BitVec 4) (l : List BusStep) : (s.startLong op l).txbuf = s.txbuf := rfl
@[simp] theorem State.startLong_txpos (op : BitVec 4) (l : List BusStep) : (s.startLong op l).txpos = s.txpos := rfl
@[simp] theorem State.startLong_raw (op : BitVec 4) (l : List BusStep) : (s.startLong op l).raw = s.raw := rfl
@[simp] theorem State.startLong_prev (op : BitVec 4) (l : List BusStep) : (s.startLong op l).prev = s.prev := rfl
@[simp] theorem State.startLong_cnt (op : BitVec 4) (l : List BusStep) : (s.startLong op l).cnt = s.cnt := rfl
@[simp] theorem State.startLong_stable (op : BitVec 4) (l : List BusStep) : (s.startLong op l).stable = s.stable := rfl
@[simp] theorem State.startLong_evq (op : BitVec 4) (l : List BusStep) : (s.startLong op l).evq = s.evq := rfl
@[simp] theorem State.startLong_busy (op : BitVec 4) (l : List BusStep) : (s.startLong op l).busy = true := rfl
@[simp] theorem State.startLong_runop (op : BitVec 4) (l : List BusStep) : (s.startLong op l).runop = op := rfl
@[simp] theorem State.startLong_progress (op : BitVec 4) (l : List BusStep) : (s.startLong op l).progress = l := rfl
@[simp] theorem State.startLong_waitCount (op : BitVec 4) (l : List BusStep) : (s.startLong op l).waitCount = s.waitCount := rfl
@[simp] theorem State.startLong_pins (op : BitVec 4) (l : List BusStep) : (s.startLong op l).pins = s.pins := rfl
@[simp] theorem State.startLong_inputs (op : BitVec 4) (l : List BusStep) : (s.startLong op l).inputs = s.inputs := rfl
@[simp] theorem State.startLong_resetHeld (op : BitVec 4) (l : List BusStep) : (s.startLong op l).resetHeld = s.resetHeld := rfl
@[simp] theorem State.startLong_board (op : BitVec 4) (l : List BusStep) : (s.startLong op l).board = s.board := rfl
@[simp] theorem State.startLong_schedule (op : BitVec 4) (l : List BusStep) : (s.startLong op l).schedule = s.schedule := rfl
@[simp] theorem State.startLong_trace (op : BitVec 4) (l : List BusStep) : (s.startLong op l).trace = s.trace := rfl
@[simp] theorem State.startLong_cycles (op : BitVec 4) (l : List BusStep) : (s.startLong op l).cycles = s.cycles := rfl
@[simp] theorem State.startLong_freeDraws (op : BitVec 4) (l : List BusStep) : (s.startLong op l).freeDraws = s.freeDraws := rfl

/-! `finishLong` -/

@[simp] theorem State.finishLong_params : (s.finishLong).params = s.params := rfl
@[simp] theorem State.finishLong_result : (s.finishLong).result = s.result := rfl
@[simp] theorem State.finishLong_err : (s.finishLong).err = s.err := rfl
@[simp] theorem State.finishLong_fault : (s.finishLong).fault = s.fault := rfl
@[simp] theorem State.finishLong_ovf : (s.finishLong).ovf = s.ovf := rfl
@[simp] theorem State.finishLong_senseLines : (s.finishLong).senseLines = s.senseLines := rfl
@[simp] theorem State.finishLong_senseProbe : (s.finishLong).senseProbe = s.senseProbe := rfl
@[simp] theorem State.finishLong_cfg : (s.finishLong).cfg = s.cfg := rfl
@[simp] theorem State.finishLong_fb : (s.finishLong).fb = s.fb := rfl
@[simp] theorem State.finishLong_snap : (s.finishLong).snap = s.snap := rfl
@[simp] theorem State.finishLong_txbuf : (s.finishLong).txbuf = s.txbuf := rfl
@[simp] theorem State.finishLong_txpos : (s.finishLong).txpos = s.txpos := rfl
@[simp] theorem State.finishLong_raw : (s.finishLong).raw = s.raw := rfl
@[simp] theorem State.finishLong_prev : (s.finishLong).prev = s.prev := rfl
@[simp] theorem State.finishLong_cnt : (s.finishLong).cnt = s.cnt := rfl
@[simp] theorem State.finishLong_stable : (s.finishLong).stable = s.stable := rfl
@[simp] theorem State.finishLong_evq : (s.finishLong).evq = s.evq := rfl
@[simp] theorem State.finishLong_busy : (s.finishLong).busy = false := rfl
@[simp] theorem State.finishLong_runop : (s.finishLong).runop = 0 := rfl
@[simp] theorem State.finishLong_progress : (s.finishLong).progress = [] := rfl
@[simp] theorem State.finishLong_waitCount : (s.finishLong).waitCount = s.waitCount := rfl
@[simp] theorem State.finishLong_pins : (s.finishLong).pins = s.pins := rfl
@[simp] theorem State.finishLong_inputs : (s.finishLong).inputs = s.inputs := rfl
@[simp] theorem State.finishLong_resetHeld : (s.finishLong).resetHeld = s.resetHeld := rfl
@[simp] theorem State.finishLong_board : (s.finishLong).board = s.board := rfl
@[simp] theorem State.finishLong_schedule : (s.finishLong).schedule = s.schedule := rfl
@[simp] theorem State.finishLong_trace : (s.finishLong).trace = s.trace := rfl
@[simp] theorem State.finishLong_cycles : (s.finishLong).cycles = s.cycles := rfl
@[simp] theorem State.finishLong_freeDraws : (s.finishLong).freeDraws = s.freeDraws := rfl

/-! `setFault` -/

@[simp] theorem State.setFault_params : (s.setFault).params = s.params := rfl
@[simp] theorem State.setFault_result : (s.setFault).result = s.result := rfl
@[simp] theorem State.setFault_err : (s.setFault).err = s.err := rfl
@[simp] theorem State.setFault_fault : (s.setFault).fault = true := rfl
@[simp] theorem State.setFault_ovf : (s.setFault).ovf = s.ovf := rfl
@[simp] theorem State.setFault_senseLines : (s.setFault).senseLines = s.senseLines := rfl
@[simp] theorem State.setFault_senseProbe : (s.setFault).senseProbe = s.senseProbe := rfl
@[simp] theorem State.setFault_cfg : (s.setFault).cfg = s.cfg := rfl
@[simp] theorem State.setFault_fb : (s.setFault).fb = s.fb := rfl
@[simp] theorem State.setFault_snap : (s.setFault).snap = s.snap := rfl
@[simp] theorem State.setFault_txbuf : (s.setFault).txbuf = s.txbuf := rfl
@[simp] theorem State.setFault_txpos : (s.setFault).txpos = s.txpos := rfl
@[simp] theorem State.setFault_raw : (s.setFault).raw = s.raw := rfl
@[simp] theorem State.setFault_prev : (s.setFault).prev = s.prev := rfl
@[simp] theorem State.setFault_cnt : (s.setFault).cnt = s.cnt := rfl
@[simp] theorem State.setFault_stable : (s.setFault).stable = s.stable := rfl
@[simp] theorem State.setFault_evq : (s.setFault).evq = s.evq := rfl
@[simp] theorem State.setFault_busy : (s.setFault).busy = s.busy := rfl
@[simp] theorem State.setFault_runop : (s.setFault).runop = s.runop := rfl
@[simp] theorem State.setFault_progress : (s.setFault).progress = s.progress := rfl
@[simp] theorem State.setFault_waitCount : (s.setFault).waitCount = s.waitCount := rfl
@[simp] theorem State.setFault_pins : (s.setFault).pins = s.pins := rfl
@[simp] theorem State.setFault_inputs : (s.setFault).inputs = s.inputs := rfl
@[simp] theorem State.setFault_resetHeld : (s.setFault).resetHeld = s.resetHeld := rfl
@[simp] theorem State.setFault_board : (s.setFault).board = s.board := rfl
@[simp] theorem State.setFault_schedule : (s.setFault).schedule = s.schedule := rfl
@[simp] theorem State.setFault_trace : (s.setFault).trace = s.trace := rfl
@[simp] theorem State.setFault_cycles : (s.setFault).cycles = s.cycles := rfl
@[simp] theorem State.setFault_freeDraws : (s.setFault).freeDraws = s.freeDraws := rfl

/-! `setCfg` -/

@[simp] theorem State.setCfg_params (c : CfgRegs) : (s.setCfg c).params = s.params := rfl
@[simp] theorem State.setCfg_result (c : CfgRegs) : (s.setCfg c).result = s.result := rfl
@[simp] theorem State.setCfg_err (c : CfgRegs) : (s.setCfg c).err = s.err := rfl
@[simp] theorem State.setCfg_fault (c : CfgRegs) : (s.setCfg c).fault = s.fault := rfl
@[simp] theorem State.setCfg_ovf (c : CfgRegs) : (s.setCfg c).ovf = s.ovf := rfl
@[simp] theorem State.setCfg_senseLines (c : CfgRegs) : (s.setCfg c).senseLines = s.senseLines := rfl
@[simp] theorem State.setCfg_senseProbe (c : CfgRegs) : (s.setCfg c).senseProbe = s.senseProbe := rfl
@[simp] theorem State.setCfg_cfg (c : CfgRegs) : (s.setCfg c).cfg = c := rfl
@[simp] theorem State.setCfg_fb (c : CfgRegs) : (s.setCfg c).fb = s.fb := rfl
@[simp] theorem State.setCfg_snap (c : CfgRegs) : (s.setCfg c).snap = s.snap := rfl
@[simp] theorem State.setCfg_txbuf (c : CfgRegs) : (s.setCfg c).txbuf = s.txbuf := rfl
@[simp] theorem State.setCfg_txpos (c : CfgRegs) : (s.setCfg c).txpos = s.txpos := rfl
@[simp] theorem State.setCfg_raw (c : CfgRegs) : (s.setCfg c).raw = s.raw := rfl
@[simp] theorem State.setCfg_prev (c : CfgRegs) : (s.setCfg c).prev = s.prev := rfl
@[simp] theorem State.setCfg_cnt (c : CfgRegs) : (s.setCfg c).cnt = s.cnt := rfl
@[simp] theorem State.setCfg_stable (c : CfgRegs) : (s.setCfg c).stable = s.stable := rfl
@[simp] theorem State.setCfg_evq (c : CfgRegs) : (s.setCfg c).evq = s.evq := rfl
@[simp] theorem State.setCfg_busy (c : CfgRegs) : (s.setCfg c).busy = s.busy := rfl
@[simp] theorem State.setCfg_runop (c : CfgRegs) : (s.setCfg c).runop = s.runop := rfl
@[simp] theorem State.setCfg_progress (c : CfgRegs) : (s.setCfg c).progress = s.progress := rfl
@[simp] theorem State.setCfg_waitCount (c : CfgRegs) : (s.setCfg c).waitCount = s.waitCount := rfl
@[simp] theorem State.setCfg_pins (c : CfgRegs) : (s.setCfg c).pins = s.pins := rfl
@[simp] theorem State.setCfg_inputs (c : CfgRegs) : (s.setCfg c).inputs = s.inputs := rfl
@[simp] theorem State.setCfg_resetHeld (c : CfgRegs) : (s.setCfg c).resetHeld = s.resetHeld := rfl
@[simp] theorem State.setCfg_board (c : CfgRegs) : (s.setCfg c).board = s.board := rfl
@[simp] theorem State.setCfg_schedule (c : CfgRegs) : (s.setCfg c).schedule = s.schedule := rfl
@[simp] theorem State.setCfg_trace (c : CfgRegs) : (s.setCfg c).trace = s.trace := rfl
@[simp] theorem State.setCfg_cycles (c : CfgRegs) : (s.setCfg c).cycles = s.cycles := rfl
@[simp] theorem State.setCfg_freeDraws (c : CfgRegs) : (s.setCfg c).freeDraws = s.freeDraws := rfl

/-! `setOvf` -/

@[simp] theorem State.setOvf_params (v : Bool) : (s.setOvf v).params = s.params := rfl
@[simp] theorem State.setOvf_result (v : Bool) : (s.setOvf v).result = s.result := rfl
@[simp] theorem State.setOvf_err (v : Bool) : (s.setOvf v).err = s.err := rfl
@[simp] theorem State.setOvf_fault (v : Bool) : (s.setOvf v).fault = s.fault := rfl
@[simp] theorem State.setOvf_ovf (v : Bool) : (s.setOvf v).ovf = v := rfl
@[simp] theorem State.setOvf_senseLines (v : Bool) : (s.setOvf v).senseLines = s.senseLines := rfl
@[simp] theorem State.setOvf_senseProbe (v : Bool) : (s.setOvf v).senseProbe = s.senseProbe := rfl
@[simp] theorem State.setOvf_cfg (v : Bool) : (s.setOvf v).cfg = s.cfg := rfl
@[simp] theorem State.setOvf_fb (v : Bool) : (s.setOvf v).fb = s.fb := rfl
@[simp] theorem State.setOvf_snap (v : Bool) : (s.setOvf v).snap = s.snap := rfl
@[simp] theorem State.setOvf_txbuf (v : Bool) : (s.setOvf v).txbuf = s.txbuf := rfl
@[simp] theorem State.setOvf_txpos (v : Bool) : (s.setOvf v).txpos = s.txpos := rfl
@[simp] theorem State.setOvf_raw (v : Bool) : (s.setOvf v).raw = s.raw := rfl
@[simp] theorem State.setOvf_prev (v : Bool) : (s.setOvf v).prev = s.prev := rfl
@[simp] theorem State.setOvf_cnt (v : Bool) : (s.setOvf v).cnt = s.cnt := rfl
@[simp] theorem State.setOvf_stable (v : Bool) : (s.setOvf v).stable = s.stable := rfl
@[simp] theorem State.setOvf_evq (v : Bool) : (s.setOvf v).evq = s.evq := rfl
@[simp] theorem State.setOvf_busy (v : Bool) : (s.setOvf v).busy = s.busy := rfl
@[simp] theorem State.setOvf_runop (v : Bool) : (s.setOvf v).runop = s.runop := rfl
@[simp] theorem State.setOvf_progress (v : Bool) : (s.setOvf v).progress = s.progress := rfl
@[simp] theorem State.setOvf_waitCount (v : Bool) : (s.setOvf v).waitCount = s.waitCount := rfl
@[simp] theorem State.setOvf_pins (v : Bool) : (s.setOvf v).pins = s.pins := rfl
@[simp] theorem State.setOvf_inputs (v : Bool) : (s.setOvf v).inputs = s.inputs := rfl
@[simp] theorem State.setOvf_resetHeld (v : Bool) : (s.setOvf v).resetHeld = s.resetHeld := rfl
@[simp] theorem State.setOvf_board (v : Bool) : (s.setOvf v).board = s.board := rfl
@[simp] theorem State.setOvf_schedule (v : Bool) : (s.setOvf v).schedule = s.schedule := rfl
@[simp] theorem State.setOvf_trace (v : Bool) : (s.setOvf v).trace = s.trace := rfl
@[simp] theorem State.setOvf_cycles (v : Bool) : (s.setOvf v).cycles = s.cycles := rfl
@[simp] theorem State.setOvf_freeDraws (v : Bool) : (s.setOvf v).freeDraws = s.freeDraws := rfl

/-! `takeSnapshot` -/

@[simp] theorem State.takeSnapshot_params : (s.takeSnapshot).params = s.params := rfl
@[simp] theorem State.takeSnapshot_result : (s.takeSnapshot).result = s.result := rfl
@[simp] theorem State.takeSnapshot_err : (s.takeSnapshot).err = s.err := rfl
@[simp] theorem State.takeSnapshot_fault : (s.takeSnapshot).fault = s.fault := rfl
@[simp] theorem State.takeSnapshot_ovf : (s.takeSnapshot).ovf = s.ovf := rfl
@[simp] theorem State.takeSnapshot_senseLines : (s.takeSnapshot).senseLines = s.senseLines := rfl
@[simp] theorem State.takeSnapshot_senseProbe : (s.takeSnapshot).senseProbe = s.senseProbe := rfl
@[simp] theorem State.takeSnapshot_cfg : (s.takeSnapshot).cfg = s.cfg := rfl
@[simp] theorem State.takeSnapshot_fb : (s.takeSnapshot).fb = s.fb := rfl
@[simp] theorem State.takeSnapshot_snap : (s.takeSnapshot).snap = s.fb := rfl
@[simp] theorem State.takeSnapshot_txbuf : (s.takeSnapshot).txbuf = s.txbuf := rfl
@[simp] theorem State.takeSnapshot_txpos : (s.takeSnapshot).txpos = s.txpos := rfl
@[simp] theorem State.takeSnapshot_raw : (s.takeSnapshot).raw = s.raw := rfl
@[simp] theorem State.takeSnapshot_prev : (s.takeSnapshot).prev = s.prev := rfl
@[simp] theorem State.takeSnapshot_cnt : (s.takeSnapshot).cnt = s.cnt := rfl
@[simp] theorem State.takeSnapshot_stable : (s.takeSnapshot).stable = s.stable := rfl
@[simp] theorem State.takeSnapshot_evq : (s.takeSnapshot).evq = s.evq := rfl
@[simp] theorem State.takeSnapshot_busy : (s.takeSnapshot).busy = s.busy := rfl
@[simp] theorem State.takeSnapshot_runop : (s.takeSnapshot).runop = s.runop := rfl
@[simp] theorem State.takeSnapshot_progress : (s.takeSnapshot).progress = s.progress := rfl
@[simp] theorem State.takeSnapshot_waitCount : (s.takeSnapshot).waitCount = s.waitCount := rfl
@[simp] theorem State.takeSnapshot_pins : (s.takeSnapshot).pins = s.pins := rfl
@[simp] theorem State.takeSnapshot_inputs : (s.takeSnapshot).inputs = s.inputs := rfl
@[simp] theorem State.takeSnapshot_resetHeld : (s.takeSnapshot).resetHeld = s.resetHeld := rfl
@[simp] theorem State.takeSnapshot_board : (s.takeSnapshot).board = s.board := rfl
@[simp] theorem State.takeSnapshot_schedule : (s.takeSnapshot).schedule = s.schedule := rfl
@[simp] theorem State.takeSnapshot_trace : (s.takeSnapshot).trace = s.trace := rfl
@[simp] theorem State.takeSnapshot_cycles : (s.takeSnapshot).cycles = s.cycles := rfl
@[simp] theorem State.takeSnapshot_freeDraws : (s.takeSnapshot).freeDraws = s.freeDraws := rfl

/-! `clearRaw` -/

@[simp] theorem State.clearRaw_params : (s.clearRaw).params = s.params := rfl
@[simp] theorem State.clearRaw_result : (s.clearRaw).result = s.result := rfl
@[simp] theorem State.clearRaw_err : (s.clearRaw).err = s.err := rfl
@[simp] theorem State.clearRaw_fault : (s.clearRaw).fault = s.fault := rfl
@[simp] theorem State.clearRaw_ovf : (s.clearRaw).ovf = s.ovf := rfl
@[simp] theorem State.clearRaw_senseLines : (s.clearRaw).senseLines = s.senseLines := rfl
@[simp] theorem State.clearRaw_senseProbe : (s.clearRaw).senseProbe = s.senseProbe := rfl
@[simp] theorem State.clearRaw_cfg : (s.clearRaw).cfg = s.cfg := rfl
@[simp] theorem State.clearRaw_fb : (s.clearRaw).fb = s.fb := rfl
@[simp] theorem State.clearRaw_snap : (s.clearRaw).snap = s.snap := rfl
@[simp] theorem State.clearRaw_txbuf : (s.clearRaw).txbuf = s.txbuf := rfl
@[simp] theorem State.clearRaw_txpos : (s.clearRaw).txpos = s.txpos := rfl
@[simp] theorem State.clearRaw_raw : (s.clearRaw).raw = Grid.fill false := rfl
@[simp] theorem State.clearRaw_prev : (s.clearRaw).prev = s.prev := rfl
@[simp] theorem State.clearRaw_cnt : (s.clearRaw).cnt = s.cnt := rfl
@[simp] theorem State.clearRaw_stable : (s.clearRaw).stable = s.stable := rfl
@[simp] theorem State.clearRaw_evq : (s.clearRaw).evq = s.evq := rfl
@[simp] theorem State.clearRaw_busy : (s.clearRaw).busy = s.busy := rfl
@[simp] theorem State.clearRaw_runop : (s.clearRaw).runop = s.runop := rfl
@[simp] theorem State.clearRaw_progress : (s.clearRaw).progress = s.progress := rfl
@[simp] theorem State.clearRaw_waitCount : (s.clearRaw).waitCount = s.waitCount := rfl
@[simp] theorem State.clearRaw_pins : (s.clearRaw).pins = s.pins := rfl
@[simp] theorem State.clearRaw_inputs : (s.clearRaw).inputs = s.inputs := rfl
@[simp] theorem State.clearRaw_resetHeld : (s.clearRaw).resetHeld = s.resetHeld := rfl
@[simp] theorem State.clearRaw_board : (s.clearRaw).board = s.board := rfl
@[simp] theorem State.clearRaw_schedule : (s.clearRaw).schedule = s.schedule := rfl
@[simp] theorem State.clearRaw_trace : (s.clearRaw).trace = s.trace := rfl
@[simp] theorem State.clearRaw_cycles : (s.clearRaw).cycles = s.cycles := rfl
@[simp] theorem State.clearRaw_freeDraws : (s.clearRaw).freeDraws = s.freeDraws := rfl

/-! `setProgress` -/

@[simp] theorem State.setProgress_params (l : List BusStep) : (s.setProgress l).params = s.params := rfl
@[simp] theorem State.setProgress_result (l : List BusStep) : (s.setProgress l).result = s.result := rfl
@[simp] theorem State.setProgress_err (l : List BusStep) : (s.setProgress l).err = s.err := rfl
@[simp] theorem State.setProgress_fault (l : List BusStep) : (s.setProgress l).fault = s.fault := rfl
@[simp] theorem State.setProgress_ovf (l : List BusStep) : (s.setProgress l).ovf = s.ovf := rfl
@[simp] theorem State.setProgress_senseLines (l : List BusStep) : (s.setProgress l).senseLines = s.senseLines := rfl
@[simp] theorem State.setProgress_senseProbe (l : List BusStep) : (s.setProgress l).senseProbe = s.senseProbe := rfl
@[simp] theorem State.setProgress_cfg (l : List BusStep) : (s.setProgress l).cfg = s.cfg := rfl
@[simp] theorem State.setProgress_fb (l : List BusStep) : (s.setProgress l).fb = s.fb := rfl
@[simp] theorem State.setProgress_snap (l : List BusStep) : (s.setProgress l).snap = s.snap := rfl
@[simp] theorem State.setProgress_txbuf (l : List BusStep) : (s.setProgress l).txbuf = s.txbuf := rfl
@[simp] theorem State.setProgress_txpos (l : List BusStep) : (s.setProgress l).txpos = s.txpos := rfl
@[simp] theorem State.setProgress_raw (l : List BusStep) : (s.setProgress l).raw = s.raw := rfl
@[simp] theorem State.setProgress_prev (l : List BusStep) : (s.setProgress l).prev = s.prev := rfl
@[simp] theorem State.setProgress_cnt (l : List BusStep) : (s.setProgress l).cnt = s.cnt := rfl
@[simp] theorem State.setProgress_stable (l : List BusStep) : (s.setProgress l).stable = s.stable := rfl
@[simp] theorem State.setProgress_evq (l : List BusStep) : (s.setProgress l).evq = s.evq := rfl
@[simp] theorem State.setProgress_busy (l : List BusStep) : (s.setProgress l).busy = s.busy := rfl
@[simp] theorem State.setProgress_runop (l : List BusStep) : (s.setProgress l).runop = s.runop := rfl
@[simp] theorem State.setProgress_progress (l : List BusStep) : (s.setProgress l).progress = l := rfl
@[simp] theorem State.setProgress_waitCount (l : List BusStep) : (s.setProgress l).waitCount = s.waitCount := rfl
@[simp] theorem State.setProgress_pins (l : List BusStep) : (s.setProgress l).pins = s.pins := rfl
@[simp] theorem State.setProgress_inputs (l : List BusStep) : (s.setProgress l).inputs = s.inputs := rfl
@[simp] theorem State.setProgress_resetHeld (l : List BusStep) : (s.setProgress l).resetHeld = s.resetHeld := rfl
@[simp] theorem State.setProgress_board (l : List BusStep) : (s.setProgress l).board = s.board := rfl
@[simp] theorem State.setProgress_schedule (l : List BusStep) : (s.setProgress l).schedule = s.schedule := rfl
@[simp] theorem State.setProgress_trace (l : List BusStep) : (s.setProgress l).trace = s.trace := rfl
@[simp] theorem State.setProgress_cycles (l : List BusStep) : (s.setProgress l).cycles = s.cycles := rfl
@[simp] theorem State.setProgress_freeDraws (l : List BusStep) : (s.setProgress l).freeDraws = s.freeDraws := rfl

/-! `holdReset` -/

@[simp] theorem State.holdReset_params (h : Bool) : (s.holdReset h).params = s.params := rfl
@[simp] theorem State.holdReset_result (h : Bool) : (s.holdReset h).result = s.result := rfl
@[simp] theorem State.holdReset_err (h : Bool) : (s.holdReset h).err = s.err := rfl
@[simp] theorem State.holdReset_fault (h : Bool) : (s.holdReset h).fault = s.fault := rfl
@[simp] theorem State.holdReset_ovf (h : Bool) : (s.holdReset h).ovf = s.ovf := rfl
@[simp] theorem State.holdReset_senseLines (h : Bool) : (s.holdReset h).senseLines = s.senseLines := rfl
@[simp] theorem State.holdReset_senseProbe (h : Bool) : (s.holdReset h).senseProbe = s.senseProbe := rfl
@[simp] theorem State.holdReset_cfg (h : Bool) : (s.holdReset h).cfg = s.cfg := rfl
@[simp] theorem State.holdReset_fb (h : Bool) : (s.holdReset h).fb = s.fb := rfl
@[simp] theorem State.holdReset_snap (h : Bool) : (s.holdReset h).snap = s.snap := rfl
@[simp] theorem State.holdReset_txbuf (h : Bool) : (s.holdReset h).txbuf = s.txbuf := rfl
@[simp] theorem State.holdReset_txpos (h : Bool) : (s.holdReset h).txpos = s.txpos := rfl
@[simp] theorem State.holdReset_raw (h : Bool) : (s.holdReset h).raw = s.raw := rfl
@[simp] theorem State.holdReset_prev (h : Bool) : (s.holdReset h).prev = s.prev := rfl
@[simp] theorem State.holdReset_cnt (h : Bool) : (s.holdReset h).cnt = s.cnt := rfl
@[simp] theorem State.holdReset_stable (h : Bool) : (s.holdReset h).stable = s.stable := rfl
@[simp] theorem State.holdReset_evq (h : Bool) : (s.holdReset h).evq = s.evq := rfl
@[simp] theorem State.holdReset_busy (h : Bool) : (s.holdReset h).busy = s.busy := rfl
@[simp] theorem State.holdReset_runop (h : Bool) : (s.holdReset h).runop = s.runop := rfl
@[simp] theorem State.holdReset_progress (h : Bool) : (s.holdReset h).progress = s.progress := rfl
@[simp] theorem State.holdReset_waitCount (h : Bool) : (s.holdReset h).waitCount = s.waitCount := rfl
@[simp] theorem State.holdReset_pins (h : Bool) : (s.holdReset h).pins = s.pins := rfl
@[simp] theorem State.holdReset_inputs (h : Bool) : (s.holdReset h).inputs = s.inputs := rfl
@[simp] theorem State.holdReset_resetHeld (h : Bool) : (s.holdReset h).resetHeld = h := rfl
@[simp] theorem State.holdReset_board (h : Bool) : (s.holdReset h).board = s.board := rfl
@[simp] theorem State.holdReset_schedule (h : Bool) : (s.holdReset h).schedule = s.schedule := rfl
@[simp] theorem State.holdReset_trace (h : Bool) : (s.holdReset h).trace = s.trace := rfl
@[simp] theorem State.holdReset_cycles (h : Bool) : (s.holdReset h).cycles = s.cycles := rfl
@[simp] theorem State.holdReset_freeDraws (h : Bool) : (s.holdReset h).freeDraws = s.freeDraws := rfl

/-! `setSchedule` -/

@[simp] theorem State.setSchedule_params (l : List Turn) : (s.setSchedule l).params = s.params := rfl
@[simp] theorem State.setSchedule_result (l : List Turn) : (s.setSchedule l).result = s.result := rfl
@[simp] theorem State.setSchedule_err (l : List Turn) : (s.setSchedule l).err = s.err := rfl
@[simp] theorem State.setSchedule_fault (l : List Turn) : (s.setSchedule l).fault = s.fault := rfl
@[simp] theorem State.setSchedule_ovf (l : List Turn) : (s.setSchedule l).ovf = s.ovf := rfl
@[simp] theorem State.setSchedule_senseLines (l : List Turn) : (s.setSchedule l).senseLines = s.senseLines := rfl
@[simp] theorem State.setSchedule_senseProbe (l : List Turn) : (s.setSchedule l).senseProbe = s.senseProbe := rfl
@[simp] theorem State.setSchedule_cfg (l : List Turn) : (s.setSchedule l).cfg = s.cfg := rfl
@[simp] theorem State.setSchedule_fb (l : List Turn) : (s.setSchedule l).fb = s.fb := rfl
@[simp] theorem State.setSchedule_snap (l : List Turn) : (s.setSchedule l).snap = s.snap := rfl
@[simp] theorem State.setSchedule_txbuf (l : List Turn) : (s.setSchedule l).txbuf = s.txbuf := rfl
@[simp] theorem State.setSchedule_txpos (l : List Turn) : (s.setSchedule l).txpos = s.txpos := rfl
@[simp] theorem State.setSchedule_raw (l : List Turn) : (s.setSchedule l).raw = s.raw := rfl
@[simp] theorem State.setSchedule_prev (l : List Turn) : (s.setSchedule l).prev = s.prev := rfl
@[simp] theorem State.setSchedule_cnt (l : List Turn) : (s.setSchedule l).cnt = s.cnt := rfl
@[simp] theorem State.setSchedule_stable (l : List Turn) : (s.setSchedule l).stable = s.stable := rfl
@[simp] theorem State.setSchedule_evq (l : List Turn) : (s.setSchedule l).evq = s.evq := rfl
@[simp] theorem State.setSchedule_busy (l : List Turn) : (s.setSchedule l).busy = s.busy := rfl
@[simp] theorem State.setSchedule_runop (l : List Turn) : (s.setSchedule l).runop = s.runop := rfl
@[simp] theorem State.setSchedule_progress (l : List Turn) : (s.setSchedule l).progress = s.progress := rfl
@[simp] theorem State.setSchedule_waitCount (l : List Turn) : (s.setSchedule l).waitCount = s.waitCount := rfl
@[simp] theorem State.setSchedule_pins (l : List Turn) : (s.setSchedule l).pins = s.pins := rfl
@[simp] theorem State.setSchedule_inputs (l : List Turn) : (s.setSchedule l).inputs = s.inputs := rfl
@[simp] theorem State.setSchedule_resetHeld (l : List Turn) : (s.setSchedule l).resetHeld = s.resetHeld := rfl
@[simp] theorem State.setSchedule_board (l : List Turn) : (s.setSchedule l).board = s.board := rfl
@[simp] theorem State.setSchedule_schedule (l : List Turn) : (s.setSchedule l).schedule = l := rfl
@[simp] theorem State.setSchedule_trace (l : List Turn) : (s.setSchedule l).trace = s.trace := rfl
@[simp] theorem State.setSchedule_cycles (l : List Turn) : (s.setSchedule l).cycles = s.cycles := rfl
@[simp] theorem State.setSchedule_freeDraws (l : List Turn) : (s.setSchedule l).freeDraws = s.freeDraws := rfl

/-! `resetCore` -/

@[simp] theorem State.resetCore_params : (s.resetCore).params = s.params := rfl
@[simp] theorem State.resetCore_result : (s.resetCore).result = 0 := rfl
@[simp] theorem State.resetCore_err : (s.resetCore).err = .ok := rfl
@[simp] theorem State.resetCore_fault : (s.resetCore).fault = false := rfl
@[simp] theorem State.resetCore_ovf : (s.resetCore).ovf = false := rfl
@[simp] theorem State.resetCore_senseLines : (s.resetCore).senseLines = 0 := rfl
@[simp] theorem State.resetCore_senseProbe : (s.resetCore).senseProbe = false := rfl
@[simp] theorem State.resetCore_cfg : (s.resetCore).cfg = .reset := rfl
@[simp] theorem State.resetCore_fb : (s.resetCore).fb = [] := rfl
@[simp] theorem State.resetCore_snap : (s.resetCore).snap = [] := rfl
@[simp] theorem State.resetCore_txbuf : (s.resetCore).txbuf = Vector.replicate 9 s.params.offByte := rfl
@[simp] theorem State.resetCore_txpos : (s.resetCore).txpos = 0 := rfl
@[simp] theorem State.resetCore_raw : (s.resetCore).raw = Grid.fill false := rfl
@[simp] theorem State.resetCore_prev : (s.resetCore).prev = Grid.fill false := rfl
@[simp] theorem State.resetCore_cnt : (s.resetCore).cnt = Grid.fill 0 := rfl
@[simp] theorem State.resetCore_stable : (s.resetCore).stable = Grid.fill false := rfl
@[simp] theorem State.resetCore_evq : (s.resetCore).evq = [] := rfl
@[simp] theorem State.resetCore_busy : (s.resetCore).busy = false := rfl
@[simp] theorem State.resetCore_runop : (s.resetCore).runop = 0 := rfl
@[simp] theorem State.resetCore_progress : (s.resetCore).progress = [] := rfl
@[simp] theorem State.resetCore_waitCount : (s.resetCore).waitCount = 0 := rfl
@[simp] theorem State.resetCore_pins : (s.resetCore).pins = Pins.reset s.params := rfl
@[simp] theorem State.resetCore_inputs : (s.resetCore).inputs = s.inputs := rfl
@[simp] theorem State.resetCore_resetHeld : (s.resetCore).resetHeld = s.resetHeld := rfl
@[simp] theorem State.resetCore_board : (s.resetCore).board = s.board := rfl
@[simp] theorem State.resetCore_schedule : (s.resetCore).schedule = s.schedule := rfl
@[simp] theorem State.resetCore_trace : (s.resetCore).trace = s.trace := rfl
@[simp] theorem State.resetCore_cycles : (s.resetCore).cycles = s.cycles := rfl
@[simp] theorem State.resetCore_freeDraws : (s.resetCore).freeDraws = s.freeDraws := rfl

end Sys2Proof.Machine
end

