-- ==== Sys2Proof/Laws/Memory.lean ====
section
/-! SUPPORT. What reading and writing memory bytes and grid cells do. -/

namespace Sys2Proof.Machine

/-! ### Memory -/

theorem memRead_filter_self (off : Byte) (m : Memory) (a : Nat) :
    memRead off (m.filter fun c => decide (c.1 ≠ a)) a = off := by
  induction m with
  | nil => rfl
  | cons c m ih =>
    by_cases h : c.1 = a
    · rwa [List.filter_cons_of_neg (by simpa using h)]
    · rw [List.filter_cons_of_pos (by simpa using h), memRead, if_neg (Ne.symm h), ih]

theorem memRead_filter_other (off : Byte) (m : Memory) {a b : Nat} (hb : b ≠ a) :
    memRead off (m.filter fun c => decide (c.1 ≠ a)) b = memRead off m b := by
  induction m with
  | nil => rfl
  | cons c m ih =>
    by_cases h : c.1 = a
    · rw [List.filter_cons_of_neg (by simpa using h), ih, memRead, if_neg (by omega)]
    · rw [List.filter_cons_of_pos (by simpa using h), memRead, memRead, ih]

theorem memRead_memInsert_self (off : Byte) (m : Memory) (a : Nat) (v : Byte) (h : ∀ c ∈ m, c.1 ≠ a) :
    memRead off (memInsert a v m) a = v := by
  induction m with
  | nil => simp [memInsert, memRead]
  | cons c m ih =>
    have hc : ¬ a = c.1 := fun e => h c (by simp) e.symm
    by_cases hlt : a < c.1
    · simp [memInsert, hlt, memRead]
    · simpa [memInsert, hlt, memRead, hc] using ih fun d hd => h d (by simp [hd])

theorem memRead_memInsert_other (off : Byte) (m : Memory) {a b : Nat} (v : Byte) (hb : b ≠ a) :
    memRead off (memInsert a v m) b = memRead off m b := by
  induction m with
  | nil => simp [memInsert, memRead, hb]
  | cons c m ih =>
    by_cases hlt : a < c.1
    · simp [memInsert, hlt, memRead, hb]
    · by_cases hc : b = c.1 <;> simp [memInsert, hlt, memRead, hc, ih]

/-- A byte reads as what was written last to it. -/
@[simp] theorem memRead_memWrite_self (off : Byte) (m : Memory) (a : Nat) (v : Byte) :
    memRead off (memWrite off m a v) a = v := by
  unfold memWrite
  by_cases h : v = off
  · simpa [h] using memRead_filter_self off m a
  · simpa [h] using memRead_memInsert_self off _ a v fun c hc => by simpa using (List.mem_filter.mp hc).2

/-- A write leaves every other byte as it was. -/
theorem memRead_memWrite_other (off : Byte) (m : Memory) {a b : Nat} (v : Byte) (hb : b ≠ a) :
    memRead off (memWrite off m a v) b = memRead off m b := by
  unfold memWrite
  by_cases h : v = off
  · simpa [h] using memRead_filter_other off m hb
  · simpa [h] using (memRead_memInsert_other off _ v hb).trans (memRead_filter_other off m hb)

theorem mem_memInsert {a : Nat} {v : Byte} {m : Memory} {c : Host.Cell} (h : c ∈ memInsert a v m) :
    c = (a, v) ∨ c ∈ m := by
  induction m with
  | nil => simpa [memInsert] using h
  | cons d m ih =>
    by_cases hlt : a < d.1
    · simpa [memInsert, hlt] using h
    · simp only [memInsert, hlt, if_false, List.mem_cons] at h
      rcases h with rfl | h
      · simp
      · rcases ih h with rfl | h <;> simp_all

theorem pairwise_memInsert {a : Nat} {v : Byte} {m : Memory} (hm : m.Pairwise fun c d => c.1 < d.1)
    (ha : ∀ c ∈ m, c.1 ≠ a) : (memInsert a v m).Pairwise fun c d => c.1 < d.1 := by
  induction m with
  | nil => simp [memInsert]
  | cons c m ih =>
    rw [List.pairwise_cons] at hm
    by_cases hlt : a < c.1
    · simp only [memInsert, hlt, if_true, List.pairwise_cons]
      refine ⟨fun d hd => ?_, hm⟩
      rcases List.mem_cons.mp hd with rfl | hd
      · exact hlt
      · exact hlt.trans (hm.1 d hd)
    · simp only [memInsert, hlt, if_false, List.pairwise_cons]
      refine ⟨fun d hd => ?_, ih hm.2 fun d hd => ha d (by simp [hd])⟩
      rcases mem_memInsert hd with rfl | hd
      · have := ha c (by simp)
        simp only
        omega
      · exact hm.1 d hd

/-- Every write keeps the canonical form. -/
theorem memWrite_wf {off : Byte} {m : Memory} {a : Nat} (v : Byte) (hm : m.wf off = true) (ha : a < 54) :
    (memWrite off m a v).wf off = true := by
  simp only [Memory.wf, Bool.and_eq_true, decide_eq_true_eq, List.all_eq_true] at hm ⊢
  have hf : (m.filter fun c => decide (c.1 ≠ a)).Pairwise fun c d => c.1 < d.1 := hm.1.filter _
  unfold memWrite
  by_cases h : v = off
  · simp only [h, if_true]
    exact ⟨hf, fun c hc => hm.2 c (List.mem_filter.mp hc).1⟩
  · simp only [h, if_false]
    refine ⟨pairwise_memInsert hf fun c hc => by simpa using (List.mem_filter.mp hc).2, fun c hc => ?_⟩
    rcases mem_memInsert hc with rfl | hc
    · exact ⟨ha, h⟩
    · exact hm.2 c (List.mem_filter.mp hc).1

@[simp] theorem wf_nil (off : Byte) : Memory.wf off [] = true := rfl

/-! ### Frame-buffer bytes -/

@[simp] theorem fbByte_setFbByte_self (s : State) (r b : Nat) (v : Byte) : (s.setFbByte r b v).fbByte r b = v := by
  simp [State.fbByte]

theorem fbByte_setFbByte_other (s : State) {r b r' b' : Nat} (v : Byte) (h : fbAddr r' b' ≠ fbAddr r b) :
    (s.setFbByte r b v).fbByte r' b' = s.fbByte r' b' := by
  simpa [State.fbByte] using memRead_memWrite_other _ _ v h

/-- Bytes of the 6 × 9 space have addresses of their own. -/
theorem fbAddr_inj {r b r' b' : Nat} (hb : b < 9) (hb' : b' < 9) (h : fbAddr r b = fbAddr r' b') :
    r = r' ∧ b = b' := by
  unfold fbAddr at h
  omega

@[simp] theorem fbByte_clearFb (s : State) (r b : Nat) : s.clearFb.fbByte r b = s.params.offByte := rfl

/-! ### Bits of a byte -/

theorem getLsbD_setBit (b : Byte) (i : Nat) (v : Bool) (j : Nat) (hj : j < 8) :
    (setBit b i v).getLsbD j = if j = i then v else b.getLsbD j := by
  unfold setBit
  by_cases h : j = i
  · subst h
    cases v <;> simp [hj]
  · have hi : ¬ (i ≤ j ∧ j - i = 0) := by omega
    by_cases hij : i ≤ j
    · have h0 : ¬ j - i = 0 := by omega
      have h1 : j - i < 8 := by omega
      cases v <;> simp [h, hj, h0]
    · have hlt : j < i := by omega
      cases v <;> simp [h, hj, hlt]

/-! ### Grids -/

@[simp] theorem cell_setCell_self {α : Type} (g : Grid α) (y x : Fin 12) (v : α) : (g.setCell y x v).cell y x = v := by
  simp [Grid.cell, Grid.setCell]

theorem cell_setCell_other {α : Type} (g : Grid α) {y x y' x' : Fin 12} (v : α) (h : ¬ (y' = y ∧ x' = x)) :
    (g.setCell y x v).cell y' x' = g.cell y' x' := by
  simp only [Grid.cell, Grid.setCell, Vector.getElem_set]
  by_cases hy : y.val = y'.val
  · have hy' : y' = y := Fin.ext hy.symm
    subst hy'
    have hx : ¬ x.val = x'.val := fun e => h ⟨rfl, Fin.ext e.symm⟩
    simp [hx]
  · simp [hy]

@[simp] theorem cell_fill {α : Type} (v : α) (y x : Fin 12) : (Grid.fill v).cell y x = v := by
  simp [Grid.cell, Grid.fill]

end Sys2Proof.Machine
end

