-- ==== Sys2Proof/Laws/Commands.lean ====
section
/-! SUPPORT. What the acceptance of a command, the abort of a transport fault, reset and a sequencer step can do, said
once each. -/

namespace Sys2Proof.Machine

/-! ### Acceptance -/

/-- Everything the acceptance of a command can do (30_encoding.md R94). -/
theorem command_cases (s : State) (i : Instr) (effect : State → State) :
    (i.cmdClass ≠ .always ∧ s.busy = true ∧ s.command i effect = s.setErr .busy) ∨
    (i.cmdClass = .bus ∧ s.busy = false ∧ s.fault = true ∧ s.command i effect = s.setErr .fault) ∨
    (i.inRange = false ∧ s.command i effect = s.setErr .range) ∨
    (i.inRange = true ∧ (i.cmdClass ≠ .always → s.busy = false) ∧ (i.cmdClass = .bus → s.fault = false) ∧
      s.command i effect = effect (s.setErr .ok)) := by
  unfold State.command State.accept
  by_cases hc : i.cmdClass = .always
  · cases hr : i.inRange <;> simp [hc]
  · cases hb : s.busy
    · by_cases hcb : i.cmdClass = .bus
      · cases hf : s.fault <;> cases hr : i.inRange <;> simp [hcb]
      · cases hr : i.inRange <;> simp [hcb]
    · simp [hc]

/-- An accepted command has its effect, with `STATUS.ERR = 0` before it (60_exceptions.md R245). -/
theorem command_accepted {s : State} {i : Instr} (effect : State → State)
    (hb : i.cmdClass ≠ .always → s.busy = false) (hf : i.cmdClass = .bus → s.fault = false)
    (hr : i.inRange = true) : s.command i effect = effect (s.setErr .ok) := by
  unfold State.command State.accept
  by_cases hc : i.cmdClass = .always
  · simp [hc, hr]
  · by_cases hcb : i.cmdClass = .bus
    · simp [hcb, hb hc, hf hcb, hr]
    · simp [hcb, hb hc, hr]

/-- Every command answers a next state. -/
theorem exec_next (i : Instr) (s : State) : ∃ t, exec i s = .next t := by
  cases i <;> exact ⟨_, rfl⟩

/-! ### The abort and reset -/

/-- A transport fault leaves `FAULT` set, nothing in progress and the bus idle and deselected (60_exceptions.md R248). -/
theorem transportFault_effect (s : State) :
    s.transportFault.fault = true ∧ s.transportFault.busy = false ∧ s.transportFault.runop = 0 ∧
    s.transportFault.progress = [] ∧
    s.transportFault.pins = { a := 0, ser := false, sck := false, lat := s.params.latIdle } := by
  simp [State.transportFault]

/-- Reset keeps what R273 says it keeps. -/
theorem applyReset_keeps (s : State) :
    s.applyReset.params = s.params ∧ s.applyReset.inputs = s.inputs ∧ s.applyReset.board = s.board := by
  simp [State.applyReset]

/-- After reset every state of CORE has its reset value. -/
theorem resetCore_applyReset (s : State) : s.applyReset.resetCore = s.applyReset := rfl

/-- CORE operates exactly if `RST_n` is 1 and it is not held in reset (70_reset_and_hazards.md R270). -/
theorem operating_iff (s : State) : s.operating = true ↔ s.inputs.rstN = true ∧ s.resetHeld = false := by
  simp [State.operating]

/-- Everything a clock turn can do: time passes, and an edge with `RST_n = 1` releases CORE from reset
(70_reset_and_hazards.md R270). -/
theorem clockTurn_cases (s : State) (n : Nat) :
    (0 < n ∧ s.inputs.rstN = true ∧ s.clockTurn n = (s.countDown n).holdReset false) ∨
    ((n = 0 ∨ s.inputs.rstN = false) ∧ s.clockTurn n = s.countDown n) := by
  unfold State.clockTurn
  by_cases h : 0 < n ∧ s.inputs.rstN = true
  · exact .inl ⟨h.1, h.2, by rw [if_pos h]⟩
  · refine .inr ⟨?_, by rw [if_neg h]⟩
    cases hr : s.inputs.rstN
    · exact .inr rfl
    · exact .inl (Nat.eq_zero_of_not_pos fun hn => h ⟨hn, hr⟩)

/-- After `RST_n` falls CORE is held in reset, with every state of it at its reset value (70_reset_and_hazards.md R270,
R271). -/
theorem pinReset_holds (s : State) : s.pinReset.resetHeld = true ∧ s.pinReset.resetCore = s.pinReset := by
  unfold State.pinReset
  cases s.midTransfer <;> exact ⟨rfl, rfl⟩

/-! ### The sequencer -/

@[simp] theorem sequencerStep_idle {s : State} (h : s.progress = []) : sequencerStep s = s := by
  simp [sequencerStep, h]

theorem sequencerStep_cons {s : State} {b : BusStep} {rest : List BusStep} (h : s.progress = b :: rest) :
    sequencerStep s = ((s.countDown s.waitCount).setProgress rest).perform b := by
  simp [sequencerStep, h]

/-- Everything a bit step can do: nothing is left to shift, the transfer is aborted, or a bit leaves. -/
theorem shiftBitStep_cases (s : State) :
    (72 ≤ s.txpos.val ∧ s.shiftBitStep = s) ∨
    (s.txpos.val < 72 ∧ s.faultSampled = true ∧ s.shiftBitStep = s.transportFault) ∨
    (∃ h : s.txpos.val < 72, s.faultSampled = false ∧
      s.shiftBitStep = { s.sendBit (Row.streamBit s.txbuf s.txpos.val) with
        txpos := ⟨s.txpos.val + 1, by omega⟩
        progress := if s.txpos.val + 1 < 72 then .shiftBit :: s.progress else s.progress }) := by
  unfold State.shiftBitStep
  by_cases h : s.txpos.val < 72
  · cases hf : s.faultSampled
    · exact .inr (.inr ⟨h, rfl, by simp [h]⟩)
    · exact .inr (.inl ⟨h, rfl, by simp [h]⟩)
  · exact .inl ⟨by omega, by simp [h]⟩

/-! ### The debounce pass -/

/-- What `Push` can do: the event is appended, or it is dropped and `OVF` set (44_debounce.md R204). -/
theorem pushEvent_cases (s : State) (e : Event) :
    (s.evq.length < s.params.evqDepth ∧ s.pushEvent e = { s with evq := s.evq ++ [e] }) ∨
    (s.params.evqDepth ≤ s.evq.length ∧ s.pushEvent e = { s with ovf := true }) := by
  unfold State.pushEvent State.evqCount
  by_cases h : s.evq.length < s.params.evqDepth
  · exact .inl ⟨h, by simp [h]⟩
  · exact .inr ⟨by omega, by simp [h]⟩

/-- What one debounce cell can change: `PREV`, `CNT`, `STABLE`, the queue and `OVF` (44_debounce.md R201). -/
theorem debounceCell_frame (s : State) (y x : Fin 12) :
    ∃ c p st q o, s.debounceCell y x = { s with cnt := c, prev := p, stable := st, evq := q, ovf := o } := by
  unfold State.debounceCell State.commitCell
  split
  · rcases pushEvent_cases { s.countCell y x with
      stable := (s.countCell y x).stable.setCell y x ((s.countCell y x).raw.cell y x) }
      (commitEvent ((s.countCell y x).raw.cell y x) y x) with ⟨_, h⟩ | ⟨_, h⟩
    · rw [h]; exact ⟨_, _, _, _, _, rfl⟩
    · rw [h]; exact ⟨_, _, _, _, _, rfl⟩
  · exact ⟨_, _, _, _, _, rfl⟩

/-- What the debounce pass can change (44_debounce.md R202). -/
theorem debouncePass_frame (s : State) :
    ∃ c p st q o, s.debouncePass = { s with cnt := c, prev := p, stable := st, evq := q, ovf := o } := by
  unfold State.debouncePass
  generalize allCells = cells
  induction cells generalizing s with
  | nil => exact ⟨_, _, _, _, _, rfl⟩
  | cons d cells ih =>
    obtain ⟨c, p, st, q, o, h⟩ := debounceCell_frame s d.1 d.2
    obtain ⟨c', p', st', q', o', h'⟩ := ih (s.debounceCell d.1 d.2)
    exact ⟨c', p', st', q', o', by rw [List.foldl_cons, h', h]⟩

/-! ### What stays -/

/-- A property of states that every rejection keeps, and the effect of the command keeps when it is accepted, is kept by
the command. -/
theorem command_keeps {p : State → Prop} {s : State} {i : Instr} {effect : State → State}
    (rejected : ∀ e, p (s.setErr e))
    (accepted : i.inRange = true → (i.cmdClass ≠ .always → s.busy = false) → (i.cmdClass = .bus → s.fault = false) →
      p (effect (s.setErr .ok))) : p (s.command i effect) := by
  rcases command_cases s i effect with ⟨_, _, e⟩ | ⟨_, _, _, e⟩ | ⟨_, e⟩ | ⟨hr, hb, hf, e⟩ <;> rw [e]
  · exact rejected _
  · exact rejected _
  · exact rejected _
  · exact accepted hr hb hf

/-- What no bus step changes: the parameters, the input levels, the hold of reset, the schedule, the configuration, the
frame buffer, `RESULT`, `STATUS.ERR` and `SENSE.LINES`. -/
theorem perform_keeps (s : State) (b : BusStep) :
    (s.perform b).params = s.params ∧ (s.perform b).inputs = s.inputs ∧
    (s.perform b).resetHeld = s.resetHeld ∧ (s.perform b).schedule = s.schedule ∧
    (s.perform b).cfg = s.cfg ∧ (s.perform b).fb = s.fb ∧ (s.perform b).result = s.result ∧
    (s.perform b).err = s.err ∧ (s.perform b).senseLines = s.senseLines := by
  cases b with
  | shiftBit =>
    rcases shiftBitStep_cases s with ⟨_, h⟩ | ⟨_, _, h⟩ | ⟨_, _, h⟩ <;>
      simp [State.perform, h, State.transportFault, State.sendBit]
  | cellSample c y x => by_cases h : s.senses c = true <;> simp [State.perform, State.cellSampleStep, h]
  | coarseSample c => by_cases h : s.senses c = true <;> simp [State.perform, State.coarseSampleStep, h]
  | debouncePass =>
    obtain ⟨_, _, _, _, _, h⟩ := debouncePass_frame s
    simp [State.perform, h]
  | _ =>
    simp [State.perform, State.takeSnapshot, State.clearRaw, State.beginShiftStep, State.latchOnStep,
      State.probeSampleStep, State.finishLong]

/-- What no sequencer step changes. -/
theorem sequencerStep_keeps (s : State) :
    (sequencerStep s).params = s.params ∧ (sequencerStep s).inputs = s.inputs ∧
    (sequencerStep s).resetHeld = s.resetHeld ∧ (sequencerStep s).schedule = s.schedule ∧ (sequencerStep s).cfg = s.cfg ∧ (sequencerStep s).fb = s.fb ∧
    (sequencerStep s).result = s.result ∧ (sequencerStep s).err = s.err ∧
    (sequencerStep s).senseLines = s.senseLines := by
  cases h : s.progress with
  | nil => simp [sequencerStep, h]
  | cons b rest =>
    rw [sequencerStep_cons h]
    obtain ⟨h1, h2, h3, h4, h5, h6, h7, h8, h9⟩ := perform_keeps ((s.countDown s.waitCount).setProgress rest) b
    simp [h1, h2, h3, h4, h5, h6, h7, h8, h9]

/-! ### A step -/

/-- Everything a step that answers a next state can do. -/
theorem step_cases {s t : State} (h : step s = .next t) :
    (s.schedule = [] ∧ t = s.sequencerTurn) ∨
    (∃ turn rest, s.schedule = turn :: rest ∧ takeTurn turn (s.setSchedule rest) = .next t) := by
  unfold step at h
  split at h
  · exact .inl ⟨‹_›, by cases h; rfl⟩
  · exact .inr ⟨_, _, ‹_›, h⟩

/-- Everything a turn that answers a next state can do. -/
theorem takeTurn_cases {turn : Turn} {s t : State} (h : takeTurn turn s = .next t) :
    (∃ w, commandWrite w s = .next t) ∨ (∃ r, t = s.hostRead r) ∨ t = s ∨ t = s.sequencerTurn ∨
    (∃ levels, t = s.environmentTurn levels) ∨ (∃ n, t = s.clockTurn n) := by
  cases turn with
  | host access =>
    simp only [takeTurn, hostTurn] at h
    split at h
    · exact .inl ⟨_, h⟩
    · exact .inr (.inl ⟨_, by cases h; rfl⟩)
    · exact .inr (.inr (.inl (by cases h; rfl)))
    · cases h
    · cases h
  | sequencer => exact .inr (.inr (.inr (.inl (by cases h; rfl))))
  | environment levels => exact .inr (.inr (.inr (.inr (.inl ⟨levels, by cases h; rfl⟩))))
  | clock n => exact .inr (.inr (.inr (.inr (.inr ⟨n, by cases h; rfl⟩))))

/-- Everything a write of CMD can do. -/
theorem commandWrite_cases {w : Word} {s t : State} (h : commandWrite w s = .next t) :
    (s.operating = false ∧ t = s) ∨
    (s.operating = true ∧ (∃ c, decode w = .error c) ∧ t = s.setErr .illegal) ∨
    (s.operating = true ∧ ∃ i, decode w = .ok i ∧ exec i s = .next t) := by
  unfold commandWrite at h
  cases hr : s.operating
  · simp only [hr] at h
    exact .inl ⟨rfl, by cases h; rfl⟩
  · simp only [hr, if_true] at h
    split at h
    · exact .inr (.inr ⟨rfl, _, ‹_›, h⟩)
    · exact .inr (.inl ⟨rfl, ⟨_, ‹_›⟩, by cases h; rfl⟩)

end Sys2Proof.Machine
end

