-- ==== Sys2Proof/Laws/PerInstr.lean ====
section
/-! SUPPORT. Facts about each command as syntax, one lemma per constructor. -/

set_option Elab.async false

namespace Sys2Proof.Laws

/-- The word of a command carries its `OP` in bits 31:28 (30_encoding.md R90). -/
def OpField.Statement (i : Instr) : Prop := opField (encode i) = i.op

/-- The word of a command matches the opcode-table row of its mnemonic (30_encoding.md R94). -/
def TableRow.Statement (i : Instr) : Prop :=
  ∃ r ∈ opcodeRows, r.mnemonic = i.mnemonic ∧ r.matchesWord (encode i) = true

theorem OpField.nop : OpField.Statement .nop := by rfl

theorem OpField.clear : OpField.Statement .clear := by rfl

theorem OpField.setPixel (x y : BitVec 4) (rgb : BitVec 3) : OpField.Statement (.setPixel x y rgb) := by
  unfold OpField.Statement opField
  ext i hi
  interval_cases i <;> simp [encode, atBit, Instr.op]

theorem OpField.getPixel (x y : BitVec 4) : OpField.Statement (.getPixel x y) := by
  unfold OpField.Statement opField
  ext i hi
  interval_cases i <;> simp [encode, atBit, Instr.op]

theorem OpField.fbRead (row byte : BitVec 4) : OpField.Statement (.fbRead row byte) := by
  unfold OpField.Statement opField
  ext i hi
  interval_cases i <;> simp [encode, atBit, Instr.op]

theorem OpField.fbWrite (row byte : BitVec 4) (val : BitVec 8) : OpField.Statement (.fbWrite row byte val) := by
  unfold OpField.Statement opField
  ext i hi
  interval_cases i <;> simp [encode, atBit, Instr.op]

theorem OpField.select (ch : BitVec 4) : OpField.Statement (.select ch) := by
  unfold OpField.Statement opField
  ext i hi
  interval_cases i <;> simp [encode, atBit, Instr.op]

theorem OpField.setAddr (addr : BitVec 3) : OpField.Statement (.setAddr addr) := by
  unfold OpField.Statement opField
  ext i hi
  interval_cases i <;> simp [encode, atBit, Instr.op]

theorem OpField.sendRow (row : BitVec 4) : OpField.Statement (.sendRow row) := by
  unfold OpField.Statement opField
  ext i hi
  interval_cases i <;> simp [encode, atBit, Instr.op]

theorem OpField.sendBlank : OpField.Statement .sendBlank := by rfl

theorem OpField.sample : OpField.Statement .sample := by rfl

theorem OpField.probe (x y : BitVec 4) : OpField.Statement (.probe x y) := by
  unfold OpField.Statement opField
  ext i hi
  interval_cases i <;> simp [encode, atBit, Instr.op]

theorem OpField.draw : OpField.Statement .draw := by rfl

theorem OpField.scan : OpField.Statement .scan := by rfl

theorem OpField.readGrid (bank : BitVec 1) (y : BitVec 4) : OpField.Statement (.readGrid bank y) := by
  unfold OpField.Statement opField
  ext i hi
  interval_cases i <;> simp [encode, atBit, Instr.op]

theorem OpField.popEvent : OpField.Statement .popEvent := by rfl

theorem OpField.cfgRead (idx : BitVec 8) : OpField.Statement (.cfgRead idx) := by
  unfold OpField.Statement opField
  ext i hi
  interval_cases i <;> simp [encode, atBit, Instr.op]

theorem OpField.cfgWrite (idx : BitVec 8) (value : BitVec 16) : OpField.Statement (.cfgWrite idx value) := by
  unfold OpField.Statement opField
  ext i hi
  interval_cases i <;> simp [encode, atBit, Instr.op]

theorem OpField.clrStatus : OpField.Statement .clrStatus := by rfl

theorem OpField.softReset : OpField.Statement .softReset := by rfl

theorem TableRow.nop : TableRow.Statement .nop :=
  ⟨⟨.nop, 0x00000000, 0xFFFFFFFF⟩, by simp [opcodeRows], rfl, by decide⟩

theorem TableRow.clear : TableRow.Statement .clear :=
  ⟨⟨.clear, 0x10000000, 0xFFFFFFFF⟩, by simp [opcodeRows], rfl, by decide⟩

theorem TableRow.setPixel (x y : BitVec 4) (rgb : BitVec 3) : TableRow.Statement (.setPixel x y rgb) := by
  refine ⟨⟨.setPixel, 0x20000000, 0xFFFFF800⟩, by simp [opcodeRows], rfl, ?_⟩
  simp only [OpcodeRow.matchesWord, beq_iff_eq]
  ext i hi
  interval_cases i <;> simp [encode, atBit]

theorem TableRow.getPixel (x y : BitVec 4) : TableRow.Statement (.getPixel x y) := by
  refine ⟨⟨.getPixel, 0x30000000, 0xFFFFFF00⟩, by simp [opcodeRows], rfl, ?_⟩
  simp only [OpcodeRow.matchesWord, beq_iff_eq]
  ext i hi
  interval_cases i <;> simp [encode, atBit]

theorem TableRow.fbRead (row byte : BitVec 4) : TableRow.Statement (.fbRead row byte) := by
  refine ⟨⟨.fbRead, 0x40000000, 0xFFFFFF00⟩, by simp [opcodeRows], rfl, ?_⟩
  simp only [OpcodeRow.matchesWord, beq_iff_eq]
  ext i hi
  interval_cases i <;> simp [encode, atBit]

theorem TableRow.fbWrite (row byte : BitVec 4) (val : BitVec 8) : TableRow.Statement (.fbWrite row byte val) := by
  refine ⟨⟨.fbWrite, 0x50000000, 0xFFFF0000⟩, by simp [opcodeRows], rfl, ?_⟩
  simp only [OpcodeRow.matchesWord, beq_iff_eq]
  ext i hi
  interval_cases i <;> simp [encode, atBit]

theorem TableRow.select (ch : BitVec 4) : TableRow.Statement (.select ch) := by
  refine ⟨⟨.select, 0x60000000, 0xFFFFFFF0⟩, by simp [opcodeRows], rfl, ?_⟩
  simp only [OpcodeRow.matchesWord, beq_iff_eq]
  ext i hi
  interval_cases i <;> simp [encode, atBit]

theorem TableRow.setAddr (addr : BitVec 3) : TableRow.Statement (.setAddr addr) := by
  refine ⟨⟨.setAddr, 0x70000000, 0xFFFFFFF8⟩, by simp [opcodeRows], rfl, ?_⟩
  simp only [OpcodeRow.matchesWord, beq_iff_eq]
  ext i hi
  interval_cases i <;> simp [encode, atBit]

theorem TableRow.sendRow (row : BitVec 4) : TableRow.Statement (.sendRow row) := by
  refine ⟨⟨.sendRow, 0x80000000, 0xFFFFFFF0⟩, by simp [opcodeRows], rfl, ?_⟩
  simp only [OpcodeRow.matchesWord, beq_iff_eq]
  ext i hi
  interval_cases i <;> simp [encode, atBit]

theorem TableRow.sendBlank : TableRow.Statement .sendBlank :=
  ⟨⟨.sendBlank, 0x80000010, 0xFFFFFFFF⟩, by simp [opcodeRows], rfl, by decide⟩

theorem TableRow.sample : TableRow.Statement .sample :=
  ⟨⟨.sample, 0x90000000, 0xFFFFFFFF⟩, by simp [opcodeRows], rfl, by decide⟩

theorem TableRow.probe (x y : BitVec 4) : TableRow.Statement (.probe x y) := by
  refine ⟨⟨.probe, 0xA0000000, 0xFFFFFF00⟩, by simp [opcodeRows], rfl, ?_⟩
  simp only [OpcodeRow.matchesWord, beq_iff_eq]
  ext i hi
  interval_cases i <;> simp [encode, atBit]

theorem TableRow.draw : TableRow.Statement .draw :=
  ⟨⟨.draw, 0xB0000000, 0xFFFFFFFF⟩, by simp [opcodeRows], rfl, by decide⟩

theorem TableRow.scan : TableRow.Statement .scan :=
  ⟨⟨.scan, 0xC0000000, 0xFFFFFFFF⟩, by simp [opcodeRows], rfl, by decide⟩

theorem TableRow.readGrid (bank : BitVec 1) (y : BitVec 4) : TableRow.Statement (.readGrid bank y) := by
  refine ⟨⟨.readGrid, 0xD0000000, 0xFFFFFEF0⟩, by simp [opcodeRows], rfl, ?_⟩
  simp only [OpcodeRow.matchesWord, beq_iff_eq]
  ext i hi
  interval_cases i <;> simp [encode, atBit]

theorem TableRow.popEvent : TableRow.Statement .popEvent :=
  ⟨⟨.popEvent, 0xE0000000, 0xFFFFFFFF⟩, by simp [opcodeRows], rfl, by decide⟩

theorem TableRow.cfgRead (idx : BitVec 8) : TableRow.Statement (.cfgRead idx) := by
  refine ⟨⟨.cfgRead, 0xF0000000, 0xFFFFFF00⟩, by simp [opcodeRows], rfl, ?_⟩
  simp only [OpcodeRow.matchesWord, beq_iff_eq]
  ext i hi
  interval_cases i <;> simp [encode, atBit]

theorem TableRow.cfgWrite (idx : BitVec 8) (value : BitVec 16) : TableRow.Statement (.cfgWrite idx value) := by
  refine ⟨⟨.cfgWrite, 0xF1000000, 0xFF000000⟩, by simp [opcodeRows], rfl, ?_⟩
  simp only [OpcodeRow.matchesWord, beq_iff_eq]
  ext i hi
  interval_cases i <;> simp [encode, atBit]

theorem TableRow.clrStatus : TableRow.Statement .clrStatus :=
  ⟨⟨.clrStatus, 0xF2000000, 0xFFFFFFFF⟩, by simp [opcodeRows], rfl, by decide⟩

theorem TableRow.softReset : TableRow.Statement .softReset :=
  ⟨⟨.softReset, 0xF3000000, 0xFFFFFFFF⟩, by simp [opcodeRows], rfl, by decide⟩

end Sys2Proof.Laws
end

