-- ==== Sys2Proof/Laws/Transfer.lean ====
section
/-! SUPPORT. What each operation of a transfer, of a sample and of a row does, said once each. -/

namespace Sys2Proof.Machine

/-! ### Pins -/

/-- Everything one bit does (42_serializer.md R163). -/
theorem sendBit_effect (s : State) (v : Bool) :
    s.sendBit v = { s with
      pins := { s.pins with ser := v, sck := false }
      board := { s.board with shifted := s.board.shifted ++ [v] }
      cycles := s.cycles + s.params.tSck
      trace := (s.cycles + s.params.tSck, .sck false) :: (s.cycles + s.params.tSck / 2, .sck true) ::
        (s.cycles, .ser v) :: s.trace } := by
  have h : s.cycles + s.params.tSck / 2 + (s.params.tSck - s.params.tSck / 2) = s.cycles + s.params.tSck := by omega
  show State.mk .. = State.mk ..
  simp [h]

/-- Everything the first step of a transfer does (42_serializer.md R161). -/
theorem beginShiftStep_effect (s : State) (src : RowSource) :
    s.beginShiftStep src = { s with
      txbuf := s.rowFrom src, txpos := 0, pins := { s.pins with lat := s.params.latIdle }
      trace := (s.cycles, .lat s.params.latIdle) :: s.trace } := by
  cases s; rfl

/-- Everything the start of the latch pulse does (42_serializer.md R164). -/
theorem latchOnStep_effect (s : State) :
    s.latchOnStep = { s with
      pins := { s.pins with ser := false, lat := s.params.latPulse }
      board := { shifted := [], latched := s.txbuf }, waitCount := s.latchHold
      trace := (s.cycles, .lat s.params.latPulse) :: (s.cycles, .ser false) :: s.trace } := by
  cases s; rfl

/-- Everything the abort does (60_exceptions.md R248). -/
theorem transportFault_all (s : State) :
    s.transportFault = { s with
      fault := true, busy := false, runop := 0, progress := []
      pins := { a := 0, ser := false, sck := false, lat := s.params.latIdle }
      board := { s.board with shifted := Config.shiftStage s.freeDraws }, freeDraws := s.freeDraws + 1
      trace := (s.cycles, .addr 0) :: (s.cycles, .lat s.params.latIdle) :: (s.cycles, .sck false) ::
        (s.cycles, .ser false) :: s.trace } := by
  cases s; rfl

/-- Everything a reset does (70_reset_and_hazards.md R271, R272). -/
theorem applyReset_all (s : State) :
    s.applyReset = { State.resetWith s.params s.inputs s.board with
      resetHeld := s.resetHeld, schedule := s.schedule, cycles := s.cycles, freeDraws := s.freeDraws
      trace := (s.cycles, .lat s.params.latIdle) :: (s.cycles, .sck false) :: (s.cycles, .ser false) ::
        (s.cycles, .addr 0) :: s.trace } := by
  cases s; rfl

/-! ### Samples -/

/-- `active` of a line's level (00_scope.md R14). -/
theorem senses_eq (s : State) (c : Fin 6) :
    s.senses c = (s.inputs.lines.getLsbD c.val == !s.params.inActiveLow) := by
  unfold State.senses State.lineLevel Params.active
  cases s.params.inActiveLow <;> simp

/-! ### Rows -/

@[simp] theorem byteAt_lt (row : Row) {b : Nat} (h : b < 9) : Row.byteAt row b = row[b] := by simp [Row.byteAt, h]

@[simp] theorem length_stream (row : Row) : (Row.stream row).length = 72 := by simp [Row.stream]

/-- Bit `j` of the stream of a row (42_serializer.md R162). -/
theorem getElem_stream (row : Row) {j : Nat} (h : j < 72) :
    (Row.stream row)[j]'(by simp [h]) = (row[j / 8]'(by omega)).getLsbD (7 - j % 8) := by
  have h8 : j / 8 < 9 := by omega
  simp [Row.stream, Row.streamBit, Row.byteAt, h8]

/-- What writing a bit of a row does to a byte of it. -/
theorem getElem_withBit (row : Row) (b i : Nat) (v : Bool) {k : Nat} (h : k < 9) :
    (Row.withBit row b i v)[k] = if k = b then setBit row[k] i v else row[k] := by
  simp [Row.withBit]

@[simp] theorem getElem_fbRow (s : State) (r : Nat) {b : Nat} (h : b < 9) : (s.fbRow r)[b] = s.fbByte r b := by
  simp [State.fbRow]

@[simp] theorem getElem_snapRow (s : State) (r : Nat) {b : Nat} (h : b < 9) : (s.snapRow r)[b] = s.snapByte r b := by
  simp [State.snapRow]

/-! ### Runs of bus steps -/

/-- A long command begins with its bus steps, `BUSY` and its `OP`, and nothing else (30_encoding.md R94). -/
theorem startLong_effect (s : State) (op : BitVec 4) (steps : List BusStep) :
    s.startLong op steps = { s with busy := true, runop := op, progress := steps } := rfl

/-- With `ANTI_GHOST` set the last transfer of a channel's display part is the blank row, so it is latched before the
address lines leave the channel (42_serializer.md R168, R170; 70_reset_and_hazards.md R283). -/
theorem driveSteps_antiGhost {cfg : CfgRegs} (h : cfg.antiGhost = true) (p : Params) (c : Fin 6) :
    driveSteps p cfg c =
      addrSteps p.chAddr[c.val] ++ shiftSteps (.snapRow c) ++ [.wait .onTime] ++ shiftSteps .blank := by
  simp [driveSteps, h]

/-- Before the sequencer's next step nothing but the wait passes: the step is performed with the wait counter at 0. -/
theorem sequencerStep_waited {s : State} {b : BusStep} {rest : List BusStep} (h : s.progress = b :: rest) :
    sequencerStep s = State.perform { s with
      waitCount := 0, cycles := s.cycles + s.waitCount, progress := rest } b := by
  simp [sequencerStep, h, State.waitOut, State.countDown, State.setProgress]

end Sys2Proof.Machine
end

