-- ==== Sys2Proof/Tests/Slice0.lean ====
section
/-! SUPPORT. Tests of the model on small states: the checks of WellFormed, words written out from 30_encoding.md,
vectors of 95_test_vectors.md, and for every statement with hypotheses a case that meets them. -/

set_option Elab.async false

namespace Sys2Proof.Tests

open Sys2Proof.Machine

/-! ### Small states -/

/-- The default parameters with `US = 1`, `T_SCK = 2`, `T_DEB = 1`, as in 95_test_vectors.md TIM-1. -/
def params : Params where
  chAddr := #v[1, 2, 3, 4, 5, 6]
  colorActiveLow := true
  latActiveHigh := true
  inActiveLow := true
  evqDepth := 16
  us := 1
  tSck := 2
  tDeb := 1
  base := 0

/-- Every line inactive, no fault, out of reset. -/
def quiet : Inputs := ⟨0b111111, false, true⟩

/-- Right after reset, the board holding nine zero bytes. -/
def idle : State := .resetWith params quiet ⟨[], Vector.replicate 9 0⟩

/-- DRAW was accepted. -/
def drawing : State := idle.startLong 0xB (drawSteps params .reset)

/-- A transport fault has happened. -/
def faulted : State := idle.setFault

/-- A long command with the given bus steps left. -/
def running (steps : List BusStep) : State := idle.startLong 0xC steps

/-- The next state, if there is one. -/
def next (o : Host.Outcome State Fault Refusal) : State :=
  match o with
  | .next t => t
  | _ => idle

/-- The host writes a word to CMD. -/
def write (w : Word) (s : State) : State := next (step (s.withFetchWord 32 w.toNat))

/-- A turn that writes a word to CMD. -/
def writing (w : Word) : Turn := .host (.write 0 4 w)

/-- Pressed at row 3, column 5. -/
def pressed35 : Event := ⟨.pressed, 3, 5⟩

/-- One event is queued. -/
def queued : State := { idle with evq := [pressed35] }

/-- The queue is full. -/
def fullQueue : State := { idle with evq := List.replicate 16 pressed35 }

/-! ### Well-formedness: each check refuses a term that breaks it -/

theorem test_x_too_large : (AsmTerm.mk .setPixel [16, 0, 0]).toInstr = none := by decide

theorem test_y_too_large : (AsmTerm.mk .probe [0, 16]).toInstr = none := by decide

theorem test_color_too_large : (AsmTerm.mk .setPixel [0, 0, 8]).toInstr = none := by decide

theorem test_row_too_large : (AsmTerm.mk .sendRow [16]).toInstr = none := by decide

theorem test_byte_too_large : (AsmTerm.mk .fbRead [0, 16]).toInstr = none := by decide

theorem test_fb_value_too_large : (AsmTerm.mk .fbWrite [0, 0, 256]).toInstr = none := by decide

theorem test_cfg_value_too_large : (AsmTerm.mk .cfgWrite [0, 65536]).toInstr = none := by decide

theorem test_channel_too_large : (AsmTerm.mk .select [16]).toInstr = none := by decide

theorem test_code_too_large : (AsmTerm.mk .setAddr [8]).toInstr = none := by decide

theorem test_index_too_large : (AsmTerm.mk .cfgRead [256]).toInstr = none := by decide

theorem test_bank_too_large : (AsmTerm.mk .readGrid [2, 0]).toInstr = none := by decide

theorem test_operand_missing : (AsmTerm.mk .getPixel [1]).toInstr = none := by decide

theorem test_operand_left_over : (AsmTerm.mk .nop [0]).toInstr = none := by decide

theorem test_params_legal : params.legal = true := by decide

theorem test_duplicate_code_illegal : { params with chAddr := #v[1, 2, 3, 4, 5, 5] }.legal = false := by decide

theorem test_deselected_code_illegal : { params with chAddr := #v[0, 2, 3, 4, 5, 6] }.legal = false := by decide

theorem test_all_high_code_illegal : { params with chAddr := #v[1, 2, 3, 4, 5, 7] }.legal = false := by decide

theorem test_queue_depth_0_illegal : { params with evqDepth := 0 }.legal = false := by decide

theorem test_queue_depth_256_illegal : { params with evqDepth := 256 }.legal = false := by decide

theorem test_us_0_illegal : { params with us := 0 }.legal = false := by decide

theorem test_odd_sck_illegal : { params with tSck := 3 }.legal = false := by decide

theorem test_sck_0_illegal : { params with tSck := 0 }.legal = false := by decide

theorem test_deb_0_illegal : { params with tDeb := 0 }.legal = false := by decide

/-! ### Decoding: every constructor from a word written out field by field (95_test_vectors.md section 3) -/

theorem test_decode_nop : decode 0b0000_0000000000000000000000000000 = .ok .nop := by decide

theorem test_decode_clear : decode 0b0001_0000000000000000000000000000 = .ok .clear := by decide

theorem test_decode_set_pixel : decode 0b0010_00000000000000000_100_0011_0101 = .ok (.setPixel 5 3 4) := by decide

theorem test_decode_get_pixel : decode 0b0011_00000000000000000_000_0011_0101 = .ok (.getPixel 5 3) := by decide

theorem test_decode_fb_read : decode 0b0100_000000000000_00000000_0011_0001 = .ok (.fbRead 3 1) := by decide

theorem test_decode_fb_write : decode 0b0101_000000000000_10100101_0101_1000 = .ok (.fbWrite 5 8 0xA5) := by decide

theorem test_decode_select : decode 0b0110_000000000000000000000000_0010 = .ok (.select 2) := by decide

theorem test_decode_setaddr : decode 0b0111_0000000000000000000000000_111 = .ok (.setAddr 7) := by decide

theorem test_decode_send_row : decode 0b1000_00000000000000000000000_0_0011 = .ok (.sendRow 3) := by decide

theorem test_decode_send_blank : decode 0b1000_00000000000000000000000_1_0000 = .ok .sendBlank := by decide

theorem test_decode_sample : decode 0b1001_0000000000000000000000000000 = .ok .sample := by decide

theorem test_decode_probe : decode 0b1010_00000000000000000_000_0011_0101 = .ok (.probe 5 3) := by decide

theorem test_decode_draw : decode 0b1011_0000000000000000000000000000 = .ok .draw := by decide

theorem test_decode_scan : decode 0b1100_0000000000000000000000000000 = .ok .scan := by decide

theorem test_decode_read_grid : decode 0b1101_0000000000000000000_1_0000_1011 = .ok (.readGrid 1 11) := by decide

theorem test_decode_pop_event : decode 0b1110_0000000000000000000000000000 = .ok .popEvent := by decide

theorem test_decode_cfg_read : decode 0b1111_0000_0000000000000000_00000101 = .ok (.cfgRead 5) := by decide

theorem test_decode_cfg_write : decode 0b1111_0001_0001001000110100_00000011 = .ok (.cfgWrite 3 0x1234) := by decide

theorem test_decode_clr_status : decode 0b1111_0010_0000000000000000_00000000 = .ok .clrStatus := by decide

theorem test_decode_soft_reset : decode 0b1111_0011_0000000000000000_00000000 = .ok .softReset := by decide

theorem test_encode_words :
    [encode (.setPixel 11 11 7), encode (.readGrid 0 3), encode (.cfgWrite 4 4), encode (.select 15)] =
      [0x200007BB, 0xD0000003, 0xF1000404, 0x6000000F] := by decide

/-- The illegal words ENC-25 to ENC-40. -/
theorem test_illegal_words :
    ([0x00000001, 0x20000835, 0x30000435, 0x40000131, 0x60000010, 0x70000008, 0x80000011, 0x80000020, 0xA0000435,
      0xD0000013, 0xD0000203, 0xF0000105, 0xF2000001, 0xF3000100, 0xF4000000, 0xFF000000] : List Word).all
      (fun w => (decode w).toOption = none) = true := by decide

theorem test_table_word : decodeTableWord 32 0x20000435 = some (.setPixel 5 3 4) := by decide

/-- The assembler's syntax (30_encoding.md R106): names, hexadecimal numbers, comments. -/
theorem test_assembler :
    assembleWords "SET_PIXEL 5, 3, RED ; red".toList = some [0x20000435] ∧
    assembleWords "CFG_WRITE DEB_THRESH, 0x1234".toList = some [0xF1123403] ∧
    assembleWords "DESELECT".toList = some [0x6000000F] ∧ assembleWords "SET_PIXEL 16, 0, 1".toList = none ∧
    assembleWords "; nothing".toList = some [] := by decide +kernel

/-! ### The map (95_test_vectors.md L-1 to L-4) -/

theorem test_map : mapper 3 5 = ⟨5, 3, 7⟩ ∧ mapper 3 11 = ⟨5, 3, 3⟩ ∧ mapper 4 0 = ⟨0, 0, 0⟩ ∧
    mapper 11 11 = ⟨5, 6, 7⟩ := by decide

/-! ### One step of each command -/

/-- SYS-4. -/
theorem test_nop_clears_err : (write 0x00000000 { idle with err := .range }).err = .ok := by decide +kernel

/-- FB-11: accepted while BUSY. -/
theorem test_clear_while_busy :
    (write 0x10000000 { drawing with fb := [(28, 0xFD)] }).fb = [] := by decide +kernel

/-- FB-2. -/
theorem test_set_pixel : (write 0x20000435 idle).fb = [(28, 0xFD)] := by decide +kernel

/-- FB-6. -/
theorem test_set_pixel_outside : write 0x2000070C idle = idle := by decide +kernel

/-- FB-1, MAGENTA. -/
theorem test_get_pixel : (write 0x30000000 { idle with fb := [(4, 0xEF), (5, 0xEF)] }).result = 0xD := by decide +kernel

/-- FB-7. -/
theorem test_get_pixel_outside : (write 0x3000000C { idle with result := 9 }).result = 0 := by decide +kernel

/-- The example of 40_mapper.md R128. -/
theorem test_fb_read : (write 0x40000031 idle).result = 0xFF := by decide +kernel

/-- FB-9. -/
theorem test_fb_read_range : (write 0x40000009 idle).err = .range := by decide +kernel

/-- FB-8. -/
theorem test_fb_write : (write 0x50000004 idle).fb = [(4, 0)] := by decide +kernel

/-- FB-10. -/
theorem test_fb_write_range : (write 0x50001209 idle).fb = [] := by decide +kernel

/-- MUX-6, before the SetAddr step. -/
theorem test_select_status : (write 0x60000002 idle).statusWord = 0x00600001 := by decide +kernel

/-- MUX-6, after the SetAddr step. -/
theorem test_select_drives : (sequencerStep (write 0x60000002 idle)).statusWord = 0x00630001 := by decide +kernel

/-- MUX-4, at the SetAddr step. -/
theorem test_setaddr_all_high : (sequencerStep (write 0x70000007 idle)).pins.a = 7 := by decide +kernel

/-- SER-7. -/
theorem test_send_row_range : (write 0x80000006 idle).busy = false := by decide +kernel

/-- FLT-4: the fault check before the first byte. -/
theorem test_send_row_fault :
    (sequencerStep { running [.shiftBit, .complete] with inputs := ⟨0b111111, true, true⟩ }).statusWord = 2 := by
  decide +kernel

/-- SER-2: the row SEND_BLANK transmits. -/
theorem test_send_blank_row :
    (sequencerStep (write 0x80000010 idle)).txbuf = Vector.replicate 9 0xFF := by decide +kernel

/-- SC-7. -/
theorem test_sample : (write 0x90000000 { idle with inputs := ⟨0b110111, false, true⟩ }).senseWord = 8 := by
  decide +kernel

/-- MUX-5. -/
theorem test_sample_busy : (write 0x90000000 drawing).err = .busy := by decide +kernel

/-- SC-2: the row of `PROBE 5, 3` on a cleared frame buffer. -/
theorem test_probe_row : (sequencerStep (write 0xA0000035 idle)).txbuf =
    #v[0xFF, 0xFD, 0xFF, 0xFF, 0xFF, 0xFF, 0xFF, 0xFF, 0xFF] := by decide +kernel

/-- SC-6: the sample of `PROBE 5, 3`. -/
theorem test_probe_sample :
    (sequencerStep { running [.probeSample 3, .complete] with inputs := ⟨0b110111, false, true⟩ }).senseWord = 0x40 := by
  decide +kernel

/-- ERR-1 and R169: DRAW takes its snapshot in its first step. -/
theorem test_draw_snapshot :
    (sequencerStep (write 0xB0000000 { idle with fb := [(28, 0xFD)] })).snap = [(28, 0xFD)] := by decide +kernel

theorem test_draw_busy : (write 0xB0000000 drawing).err = .busy := by decide +kernel

/-- R186: SCAN clears RAW in its first step. -/
theorem test_scan_clears_raw :
    (sequencerStep (write 0xC0000000 { idle with raw := Grid.fill true })).raw = Grid.fill false := by decide +kernel

/-- SC-1: the sample of the probe of (5, 3). -/
theorem test_scan_sample :
    ((sequencerStep { running [.cellSample 3 3 5, .complete] with inputs := ⟨0b110111, false, true⟩ }).raw.cell 3 5) =
      true := by decide +kernel

/-- The example of 44_debounce.md R206. -/
theorem test_read_grid :
    (write 0xD0000003 { idle with raw := Grid.setCell (Grid.fill false) 3 5 true }).result = 0x20 := by decide +kernel

theorem test_read_grid_stable :
    (write 0xD0000103 { idle with raw := Grid.setCell (Grid.fill false) 3 5 true }).result = 0 := by decide +kernel

/-- EVQ-1. -/
theorem test_pop_event : (write 0xE0000000 queued).result = 0x80000135 := by decide +kernel

/-- EVQ-3. -/
theorem test_pop_event_corner :
    (write 0xE0000000 { idle with evq := [⟨.pressed, 11, 11⟩] }).result = 0x800001BB := by decide +kernel

/-- RST-1: `CFG_READ INFO`. -/
theorem test_cfg_read_info : (write 0xF0000005 idle).result = 0x710 := by decide +kernel

/-- SYS-3. -/
theorem test_cfg_read_range : (write 0xF0000006 idle).err = .range := by decide +kernel

/-- SYS-1. -/
theorem test_cfg_write_threshold : (write 0xF1123403 idle).cfg.debThresh = 0x34 := by decide +kernel

/-- SYS-2. -/
theorem test_cfg_write_ctrl : (write 0xF1FFFF04 idle).cfg.ctrl = 7 := by decide +kernel

/-- EVQ-5. -/
theorem test_clr_status : (write 0xF2000000 { idle with ovf := true, err := .range }).statusWord = 0 := by
  decide +kernel

/-- R223: FAULT stays. -/
theorem test_clr_status_keeps_fault : (write 0xF2000000 faulted).fault = true := by decide +kernel

/-- FLT-3. -/
theorem test_soft_reset : (write 0xF3000000 { faulted with fb := [(4, 0xEF)] }).fb = [] := by decide +kernel

/-- ERR-1. -/
theorem test_soft_reset_busy : (write 0xF3000000 drawing).err = .busy := by decide +kernel

/-- EVQ-4: seventeen cells commit in one pass; the last event is dropped. -/
theorem test_overflow :
    (State.debouncePass { idle with
      raw := Vector.ofFn fun y => Vector.ofFn fun x => decide (y.val = 0 ∨ (y.val = 1 ∧ x.val ≤ 4))
      prev := Vector.ofFn fun y => Vector.ofFn fun x => decide (y.val = 0 ∨ (y.val = 1 ∧ x.val ≤ 4))
      cnt := Grid.fill 3 }).statusWord = 0x100C := by decide +kernel

/-- GL-1, the row of the illustrative glyph that has one pixel at (3, 2). -/
theorem test_glyph_row :
    drawGlyph [false, false, false, true, false] 5 1 0 2 4 = [.setPixel 3 2 4] := by decide

/-! ### Cases that meet the hypotheses of the statements -/

theorem witness_EncodeAfterDecode : decode 0xF1123403 = .ok (.cfgWrite 3 0x1234) := by decide

theorem witness_DecodeFollowsTheOpcodeTable :
    (∃ i, decode 0x200007BB = .ok i) ∧ ∃ r ∈ opcodeRows, r.matchesWord 0x200007BB = true :=
  ⟨⟨.setPixel 11 11 7, by decide⟩, ⟨.setPixel, 0x20000000, 0xFFFFF800⟩, by decide, by decide⟩

theorem witness_AssemblyTermsFitOrAreRefused :
    (AsmTerm.mk .cfgWrite [256, 0]).wellFormed = false ∧ (AsmTerm.mk .cfgWrite [255, 65535]).wellFormed = true ∧
    (AsmTerm.mk .readGrid [1, 15]).toInstr = some (.readGrid 1 15) := by
  decide

theorem witness_StepRunsTheDecodedCommand :
    (idle.setSchedule [writing 0x20000435]).schedule = .host (.write 0 4 0x20000435) :: [] ∧
    (idle.setSchedule [writing 0x20000435]).operating = true ∧ decode 0x20000435 = .ok (.setPixel 5 3 4) := by
  decide

theorem witness_IllegalWordsReportIllegal :
    idle.operating = true ∧ drawing.busy = true ∧ drawing.operating = true ∧
    (∀ r ∈ opcodeRows, r.matchesWord 0x80000011 = false) := by decide

theorem witness_FirstErrorIsReported :
    (drawing.operating = true ∧ drawing.busy = true) ∧
    (faulted.operating = true ∧ faulted.busy = false ∧ faulted.fault = true) ∧
    (idle.operating = true ∧ idle.busy = false ∧ idle.fault = false) := by decide

theorem witness_RejectedCommandsArePrecise :
    (∃ t, commandWrite 0x80000009 idle = .next t ∧ t.err ≠ .ok) ∧ (∃ t, commandWrite 0x80000005 idle = .next t) ∧
    (decode 0x80000005 = .ok (.sendRow 5) ∧ (Instr.sendRow 5).inRange = true ∧ idle.busy = false ∧
      idle.fault = false ∧ idle.operating = true) :=
  ⟨⟨_, rfl, by decide +kernel⟩, ⟨_, rfl⟩, by decide⟩

theorem witness_BusyRefusesBusAndQuietCommands : drawing.busy = true := by decide

theorem witness_FaultRefusesBusCommands : faulted.busy = false ∧ faulted.fault = true := by decide

theorem witness_OutOfRangeOperandsReportRange :
    idle.busy = false ∧ idle.fault = false ∧ 5 < BitVec.toNat (6 : BitVec 4) ∧ 8 < BitVec.toNat (9 : BitVec 4) ∧
    11 < BitVec.toNat (12 : BitVec 4) ∧ 5 < BitVec.toNat (6 : BitVec 8) ∧ 4 < BitVec.toNat (5 : BitVec 8) ∧
    ∃ t, exec (.select 15) idle = .next t :=
  ⟨rfl, rfl, by decide, by decide, by decide, by decide, by decide, _, rfl⟩

theorem witness_MapIsABijection :
    mapper 11 11 = mapper 11 11 ∧ mapper 3 5 = ⟨5, 3, 7⟩ ∧ mapper 3 6 = ⟨0, 3, 3⟩ ∧ mapper 4 5 = ⟨5, 0, 0⟩ ∧
    mapper 4 6 = ⟨0, 6, 0⟩ ∧ unmapper ⟨5, 3, 4⟩ = (0, 5) ∧ unmapper ⟨5, 3, 3⟩ = (3, 11) ∧ (MapPos.mk 5 6 7).row ≤ 5 ∧ (MapPos.mk 5 6 7).byte ∈ [0, 3, 6] ∧
    (MapPos.mk 5 6 7).bit ≤ 7 := by decide

theorem witness_ClearTurnsEveryPixelOff : idle.params.colorActiveLow = true := by decide

theorem witness_SetPixelWritesThreeBits :
    (11 : BitVec 4).toNat ≤ 11 ∧ 11 < (12 : BitVec 4).toNat ∧ 0 ≠ fbAddr 5 6 ∧ 0 ≠ fbAddr 5 7 ∧ 0 ≠ fbAddr 5 8 := by
  decide

theorem witness_GetPixelReadsThePlanes : (11 : BitVec 4).toNat ≤ 11 ∧ 11 < (12 : BitVec 4).toNat := by decide

theorem witness_PixelReadsBackAsWritten :
    (11 : BitVec 4).toNat ≤ 11 ∧ (0 : BitVec 4).toNat ≤ 11 := by decide

theorem witness_FbReadReturnsTheByte : (5 : BitVec 4).toNat ≤ 5 ∧ (8 : BitVec 4).toNat ≤ 8 := by decide

theorem witness_FbWriteStoresOneByte :
    (5 : BitVec 4).toNat ≤ 5 ∧ (8 : BitVec 4).toNat ≤ 8 ∧ 52 ≠ fbAddr (5 : BitVec 4).toNat (8 : BitVec 4).toNat := by
  decide

theorem witness_CanonicalMemoriesThatReadAlikeAreEqual :
    Memory.wf 0xFF [(0, 1), (53, 2)] = true ∧
    ∀ a, memRead 0xFF [(0, 1), (53, 2)] a = memRead 0xFF [(0, 1), (53, 2)] a := ⟨by decide, fun _ => rfl⟩

theorem witness_ChannelCodesResolveAndReadBack :
    params.chAddrLegal = true ∧ params.chAddr = #v[1, 2, 3, 4, 5, 6] ∧ 6 ≤ (6 : BitVec 4).toNat ∧
    (6 : BitVec 3).toNat ≤ 6 := by decide

theorem witness_SelectAndSetAddrDriveAndSettle :
    idle.busy = false ∧ idle.fault = false ∧
    (∃ c : Fin 6, Instr.select 5 = .select (BitVec.ofNat 4 c.val) ∧ (6 : BitVec 3) = idle.params.chAddr[c.val]) ∧
    (∃ ch : BitVec 4, 6 ≤ ch.toNat ∧ Instr.select 6 = .select ch) :=
  ⟨rfl, rfl, ⟨5, by decide, by decide⟩, ⟨6, by decide, rfl⟩⟩

theorem witness_SettleFollowsEveryAddressChange :
    (Instr.draw.isLong = true ∧ idle.busy = false ∧ ∃ t, exec .draw idle = .next t ∧ t.err = .ok) ∧
    sequenced .idle [.complete] = true ∧ (running (selectSteps 3)).progress = .setAddr 3 :: [.wait .settle, .complete] ∧
    sequenced .idle (running (selectSteps 3)).progress = true :=
  ⟨⟨rfl, rfl, _, rfl, rfl⟩, by decide, by decide, by decide⟩

theorem witness_AllHighIsReachedOnlyBySetAddr :
    let s := { running (selectSteps 7) with runop := 7 }
    s.params.chAddrLegal = true ∧ (s.runop ≠ 7 → .setAddr 7 ∉ s.progress) ∧ ∃ t, step s = .next t ∧ t.pins.a = 7 :=
  ⟨by decide, fun h => absurd rfl h, _, rfl, by decide +kernel⟩

theorem witness_ShiftBitSendsTheStreamInOrder :
    (running [.shiftBit, .complete]).progress = .shiftBit :: [.complete] ∧
    (running [.shiftBit, .complete]).txpos.val < 72 ∧ (running [.shiftBit, .complete]).inputs.busFault = false ∧
    { running [.shiftBit, .complete] with txpos := 71 }.txpos.val = 71 := by decide

theorem witness_SendTransmitsAndLatchesTheRow :
    idle.busy = false ∧ idle.fault = false ∧ idle.inputs.busFault = false ∧ idle.pins.ser = false ∧
    idle.pins.sck = false ∧ idle.pins.lat = idle.params.latIdle ∧
    ∀ b : Fin 9, (Vector.replicate 9 (0xFF : Byte))[b.val] = memRead idle.params.offByte idle.fb (9 * 5 + b.val) := by
  decide

theorem witness_DrawShowsEveryRowAndDeselects :
    idle.busy = false ∧ idle.fault = false ∧ idle.inputs.busFault = false ∧ idle.pins.ser = false ∧
    idle.pins.sck = false ∧ idle.pins.lat = idle.params.latIdle := by decide

theorem witness_NothingIsLitAfterADraw :
    idle.params.chAddrLegal = true ∧ idle.busy = false ∧ idle.fault = false ∧ idle.inputs.busFault = false := by decide

theorem witness_FbWritesDoNotDisturbARunningCycle :
    (∀ b ∈ (running [.coarseSample 5, .complete]).progress, readsFb b = false) ∧ idle.busy = false ∧
    ∃ t, exec .scan idle = .next t ∧ t.err = .ok :=
  ⟨by decide, rfl, _, rfl, rfl⟩

theorem witness_SampleReadsTheSixLines : idle.busy = false ∧ idle.fault = false := by decide

theorem witness_ProbeSendsTheRedBitAndSamples :
    idle.busy = false ∧ idle.fault = false ∧ idle.inputs.busFault = false ∧ idle.pins.ser = false ∧
    idle.pins.sck = false ∧ idle.pins.lat = idle.params.latIdle := by decide

theorem witness_ScanRebuildsRawFromTheProbes :
    idle.busy = false ∧ idle.fault = false ∧
    ∀ k : Nat, ((fun _ => quiet) k).busFault = false ∧ ((fun _ => quiet) k).rstN = true :=
  ⟨rfl, rfl, fun _ => ⟨rfl, rfl⟩⟩

theorem witness_CoarseCheckGuardsTheProbes :
    (running [.coarseSample 5, .complete]).progress = .coarseSample 5 :: [.complete] ∧
    (running (shiftSteps (.snapCoarse 5))).progress =
      .beginShift (.snapCoarse 5) :: [.shiftBit, .latchOn, .latchOff] ∧
    (running (cellSteps 5 11 11)).progress =
      .beginShift (.snapProbe 11 11) :: [.shiftBit, .latchOn, .latchOff, .cellSample 5 11 11] ∧
    (running [.cellSample 5 11 11, .complete]).progress = .cellSample 5 11 11 :: [.complete] := by decide

/-- A cell of `held` commits at its next step: threshold reached and the committed value differs. -/
def held : State := { idle with raw := Grid.fill true, prev := Grid.fill true, cnt := Grid.fill 3 }

/-- A cell of `heldFull` commits at its next step, and the queue is full. -/
def heldFull : State := { held with evq := List.replicate 16 pressed35 }

theorem witness_DebounceCellFollowsTheStateMachine :
    (held.cfg.debThresh.toNat ≤ min ((held.cnt.cell 0 0).toNat + 1) 255 ∧ held.stable.cell 0 0 ≠ held.raw.cell 0 0 ∧
      held.evq.length < held.params.evqDepth) ∧
    (heldFull.cfg.debThresh.toNat ≤ min ((heldFull.cnt.cell 0 0).toNat + 1) 255 ∧
      heldFull.raw.cell 0 0 = heldFull.prev.cell 0 0 ∧ heldFull.stable.cell 0 0 ≠ heldFull.raw.cell 0 0 ∧
      heldFull.params.evqDepth ≤ heldFull.evq.length) ∧
    ¬ (idle.stable.cell 0 0 ≠ idle.raw.cell 0 0) := by decide

theorem witness_DebounceCellsAreIndependent :
    ¬ ((0 : Fin 12) = 0 ∧ (11 : Fin 12) = 0) ∧ held.cfg.debThresh = idle.cfg.debThresh ∧
    held.stable.cell 0 0 = idle.stable.cell 0 0 := by decide

theorem witness_ChangingSampleNeverCommits :
    let grids : Nat → Grid Bool := fun n => Grid.fill (decide (n % 2 = 0))
    idle.cfg.debThresh ≠ 0 ∧ (grids 0).cell 11 11 ≠ idle.prev.cell 11 11 ∧
      ∀ n, (grids (n + 1)).cell 11 11 ≠ (grids n).cell 11 11 := by
  refine ⟨by decide, by decide, fun n => ?_⟩
  simp only [Grid.fill, Grid.cell, Vector.getElem_replicate]
  rcases Nat.mod_two_eq_zero_or_one n with h | h <;> simp [h, Nat.add_mod]

theorem witness_HeldSampleCommitsOnce :
    let grids : Nat → Grid Bool := fun _ => Grid.fill true
    idle.cfg.debThresh ≠ 0 ∧ true ≠ idle.prev.cell 11 11 ∧ true ≠ idle.stable.cell 11 11 ∧
      ∀ n, (grids n).cell 11 11 = true :=
  ⟨by decide, by decide, by decide, fun _ => rfl⟩

theorem witness_PopEventReturnsTheOldest : queued.evq = pressed35 :: [] ∧ idle.evq = [] := by decide

theorem witness_ReadGridReturnsTheRow : idle.busy = false := by decide

theorem witness_CfgReadReturnsTheRegister : idle.params.evqDepth ≤ 255 := by decide

theorem witness_CfgWriteStoresTheRegister : idle.busy = false := by decide

theorem witness_ResetGivesEveryStateItsResetValue :
    (idle.busy = false ∧ ∃ t, exec .softReset idle = .next t) ∧
    ∃ levels t, Inputs.rstN levels = false ∧ t = drawing.environmentTurn levels :=
  ⟨⟨rfl, _, rfl⟩, ⟨0, false, false⟩, _, rfl, rfl⟩

theorem witness_SoftResetRecoversFromAFault : faulted.busy = false := by decide

theorem witness_TransportFaultAbortsTheCommand :
    let s := { running [.shiftBit, .complete] with txpos := 64, inputs := ⟨0b111111, true, true⟩ }
    s.progress = .shiftBit :: [.complete] ∧ s.txpos.val < 72 ∧ s.txpos.val % 8 = 0 ∧ s.inputs.busFault = true := by
  decide

theorem witness_OnlyResetClearsFault :
    (∃ t, step (faulted.setSchedule [writing 0xF3000000]) = .next t ∧ t.fault = false) ∧
    (∃ t, step (faulted.setSchedule [.environment ⟨0, false, false⟩]) = .next t ∧ t.fault = false) ∧
    faulted.fault = true :=
  ⟨⟨_, rfl, by decide +kernel⟩, ⟨_, rfl, by decide +kernel⟩, rfl⟩

/-- A transfer is at its last bit, with the SCAN's other steps to come. -/
def shifting : State :=
  { running ([.shiftBit, .latchOn, .latchOff] ++ cellSteps 5 11 11 ++ [.debouncePass, .complete]) with txpos := 71 }

/-- `RST_n` is 0. -/
def inReset : State := drawing.environmentTurn ⟨0, false, false⟩

/-- `idle`, a running transfer and a CORE held in reset meet the invariant, and each has a next state. -/
theorem witness_EveryStepKeepsTheInvariant :
    (idle.Inv ∧ ∃ t, step idle = .next t) ∧
    (shifting.busy = true ∧ shifting.Inv ∧ ∃ t, step shifting = .next t) ∧
    (inReset.resetHeld = true ∧ inReset.Inv ∧ ∃ t, step inReset = .next t) :=
  ⟨⟨{ running := fun h => absurd h (by decide)
      resting := by decide
      clockLow := by decide
      faultIdle := by decide
      queueBound := by decide
      threshold := by decide
      fbForm := by decide
      snapForm := by decide
      heldLow := by decide
      heldReset := by decide }, _, rfl⟩,
   ⟨rfl,
    { running := fun _ => ⟨.shifting, by decide, by decide, by decide⟩
      resting := fun h => absurd h (by decide)
      clockLow := by decide
      faultIdle := by decide
      queueBound := by decide
      threshold := by decide
      fbForm := by decide
      snapForm := by decide
      heldLow := by decide
      heldReset := by decide }, _, rfl⟩,
   rfl,
   { running := fun h => absurd h (by decide)
     resting := fun _ => ⟨rfl, rfl, rfl, rfl, rfl⟩
     clockLow := rfl
     faultIdle := fun _ => rfl
     queueBound := Nat.zero_le _
     threshold := by decide
     fbForm := rfl
     snapForm := rfl
     heldLow := fun _ => rfl
     heldReset := fun _ => rfl }, _, rfl⟩

theorem witness_ResetHoldsUntilTheClockEdge :
    let released := inReset.environmentTurn quiet
    (drawing.setSchedule [.environment ⟨0, false, false⟩]).schedule = .environment ⟨0, false, false⟩ :: [] ∧
    released.operating = false ∧ released.inputs.rstN = true ∧ released.resetHeld = true ∧
    (released.setSchedule [writing 0xB0000000]).schedule = .host (.write 0 4 0xB0000000) :: [] ∧
    ∃ t, step (released.setSchedule [.clock 1]) = .next t ∧ t.operating = true :=
  ⟨rfl, rfl, rfl, rfl, rfl, _, rfl, rfl⟩

/-- R270: a CMD write between the release of `RST_n` and the clock edge is without effect. -/
theorem test_write_before_clock_edge :
    next (step ((inReset.environmentTurn quiet).setSchedule [writing 0xB0000000])) = inReset.environmentTurn quiet := rfl

theorem witness_OnlyTheSequencerDrivesThePins :
    ∃ t, step (running (selectSteps 3)) = .next t ∧ t.pins ≠ (running (selectSteps 3)).pins :=
  ⟨_, rfl, by decide +kernel⟩

theorem witness_ConfigurationIsConstantWhileBusy :
    let s := { drawing with cfg := { CfgRegs.reset with irqEn := true }, schedule := [.environment ⟨0, false, false⟩] }
    s.busy = true ∧ ∃ t, step s = .next t ∧ t.cfg ≠ s.cfg :=
  ⟨rfl, _, rfl, by decide +kernel⟩

theorem witness_InterruptFollowsTheQueue :
    let s := { queued with cfg := { CfgRegs.reset with irqEn := true } }
    s.evtIrq = true ∧ queued.evtIrq = false ∧
    (∃ t, step (s.setSchedule [writing 0xE0000000]) = .next t ∧ t.evtIrq = false) ∧
    (∃ t, step (queued.setSchedule [writing 0xF1000404]) = .next t ∧ t.evtIrq = true) :=
  ⟨rfl, rfl, ⟨_, rfl, by decide +kernel⟩, ⟨_, rfl, by decide +kernel⟩⟩

theorem witness_OverflowFlagHasItsWriters :
    let s := { fullQueue with
      raw := Grid.fill true, prev := Grid.fill true, cnt := Grid.fill 3, busy := true, progress := [.debouncePass, .complete] }
    s.ovf = false ∧ s.schedule = [] ∧ (∃ t, step s = .next t ∧ t.ovf = true) ∧
    ∃ t, step ({ idle with ovf := true }.setSchedule [writing 0xF2000000]) = .next t ∧ t.ovf = false :=
  ⟨rfl, rfl, ⟨_, rfl, by decide +kernel⟩, ⟨_, rfl, by decide +kernel⟩⟩

theorem witness_ParametersNeverChange : ∃ t, step (idle.setSchedule [writing 0xF3000000]) = .next t := ⟨_, rfl⟩

theorem witness_RegisterAccessesHaveNoSideEffect :
    (12, HostReg.sense) ∈ [(0, HostReg.cmd), (4, HostReg.result), (8, HostReg.status), (12, HostReg.sense)] ∧
    (idle.setSchedule [.host (.read 12 4)]).schedule = .host (.read 12 4) :: [] ∧
    (idle.setSchedule [.host (.write 12 4 1)]).schedule = .host (.write 12 4 1) :: [] := by decide

theorem witness_StatusAndSenseFieldsReadTheFlags : fullQueue.evq.length ≤ 255 := by decide

theorem witness_UnsupportedAccessesAreRefused :
    (14 < 16 ∧ (14 ∉ [0, 4, 8, 12])) ∧ (2 ≠ 4) ∧
    (idle.setSchedule [.host (.write 14 4 1)]).schedule = .host (.write 14 4 1) :: [] ∧
    (idle.setSchedule [.host (.read 0 2)]).schedule = .host (.read 0 2) :: [] := by decide

theorem witness_WaitIdleEndsAfterSelect :
    idle.busy = false ∧ idle.fault = false ∧ idle.operating = true ∧ ∃ t, exec (.select 15) idle = .next t :=
  ⟨rfl, rfl, rfl, _, rfl⟩

/-- The memories of `State.reset` have their canonical form. -/
theorem test_reset_memory_wf :
    State.reset.fb.wf State.reset.params.offByte = true ∧ State.reset.snap.wf State.reset.params.offByte = true := by
  decide

/-- RST-1: `STATUS`, `RESULT` and `SENSE` read 0 after reset. -/
theorem test_reset_registers :
    State.reset.statusWord = 0 ∧ State.reset.result = 0 ∧ State.reset.senseWord = 0 := by decide

end Sys2Proof.Tests
end

section
/-! PROOFS. What a host access does in the 16-byte window (20_memory.md R75, R77): the offsets at which a register
answers, and the accesses the host agent has no step for. -/

namespace Sys2Proof.Machine

/-- The host's next access is taken from the schedule and served (00_scope.md R25). -/
theorem step_eq_hostTurn {s : State} {access : HostAccess} {rest : List Turn}
    (hsched : s.schedule = .host access :: rest) : step s = hostTurn access (s.setSchedule rest) := by
  simp only [step, hsched, takeTurn]

/-- No register answers away from the four word-aligned offsets (20_memory.md R75). -/
theorem regAt_eq_none_iff {offset : Nat} : regAt offset = none ↔ offset ∉ [0, 4, 8, 12] := by
  constructor
  · intro hnone hmem
    simp only [List.mem_cons, List.not_mem_nil, or_false] at hmem
    rcases hmem with rfl | rfl | rfl | rfl <;> cases hnone
  · intro hmem
    unfold regAt
    split <;> simp_all

theorem hostRequest_write_unsupported {offset bytes : Nat} (v : Word) (hwin : offset < 16)
    (hbad : bytes ≠ 4 ∨ regAt offset = none) :
    hostRequest (.write offset bytes v) = .unsupported offset bytes := by
  simp only [hostRequest, if_neg (Nat.not_le.mpr hwin)]
  cases hreg : regAt offset with
  | none => rfl
  | some r =>
    have hwidth : bytes ≠ 4 := hbad.resolve_right (by simp [hreg])
    cases r <;> exact if_neg hwidth

theorem hostRequest_read_unsupported {offset bytes : Nat} (hwin : offset < 16)
    (hbad : bytes ≠ 4 ∨ regAt offset = none) :
    hostRequest (.read offset bytes) = .unsupported offset bytes := by
  simp only [hostRequest, if_neg (Nat.not_le.mpr hwin)]
  cases hreg : regAt offset with
  | none => rfl
  | some r =>
    have hwidth : bytes ≠ 4 := hbad.resolve_right (by simp [hreg])
    exact if_neg hwidth

/-- A step whose host access asks for nothing CORE supports stops with the refusal that names it. -/
theorem step_refused_of_unsupported {s : State} {access : HostAccess} {rest : List Turn} {offset bytes : Nat}
    (hsched : s.schedule = .host access :: rest) (hreq : hostRequest access = .unsupported offset bytes) :
    step s = .refused (.unsupportedAccess offset bytes) := by
  rw [step_eq_hostTurn hsched]
  simp only [hostTurn, hreq]

end Sys2Proof.Machine

open Sys2Proof Sys2Proof.Machine

/-- Settles O57: `hostRequest` classifies the access as unsupported, whether it is a write or a read. -/
theorem unsupportedAccessesAreRefused : Obligations.UnsupportedAccessesAreRefused := by
  intro s rest offset bytes v hwin hbad hsched
  have hbad' : bytes ≠ 4 ∨ regAt offset = none := hbad.imp_right regAt_eq_none_iff.mpr
  rcases hsched with hwrite | hread
  · exact step_refused_of_unsupported hwrite (hostRequest_write_unsupported v hwin hbad')
  · exact step_refused_of_unsupported hread (hostRequest_read_unsupported hwin hbad')
end

section
/-! PROOFS. The pixels DRAW_RECT emits and their order (30_encoding.md R112). -/

namespace Sys2Proof.Machine

theorem mem_inclusive {a b n : Nat} : n ∈ inclusive a b ↔ a ≤ n ∧ n ≤ b := by
  simp only [inclusive, List.mem_map, List.mem_range]
  constructor
  · rintro ⟨k, hk, rfl⟩
    omega
  · rintro ⟨hlow, hhigh⟩
    exact ⟨n - a, by omega, by omega⟩

theorem inclusive_ascending (a b : Nat) : (inclusive a b).Pairwise (· < ·) :=
  List.pairwise_lt_range.map _ fun _ _ hlt => Nat.add_lt_add_left hlt a

theorem mem_emitPixel {x y : Nat} {colour : BitVec 3} {i : Instr} :
    i ∈ emitPixel x y colour ↔ x ≤ 11 ∧ y ≤ 11 ∧ i = .setPixel (.ofNat 4 x) (.ofNat 4 y) colour := by
  unfold emitPixel
  split <;> simp_all

/-- A pixel is emitted at most once, so every order holds of what `emitPixel` emits. -/
theorem emitPixel_pairwise (R : Instr → Instr → Prop) (x y : Nat) (colour : BitVec 3) :
    (emitPixel x y colour).Pairwise R := by
  unfold emitPixel
  split
  · exact List.pairwise_singleton ..
  · exact List.Pairwise.nil

/-- A 4-bit operand keeps the order of the coordinates on the matrix. -/
theorem coord_lt_coord {m n : Nat} (hlt : m < n) (hn : n ≤ 11) : BitVec.ofNat 4 m < BitVec.ofNat 4 n := by
  simp only [BitVec.lt_def, BitVec.toNat_ofNat]
  omega

/-- `i` comes before `j` in the order of R112: rows ascending, columns ascending within a row. -/
def PixelBefore (colour : BitVec 3) (i j : Instr) : Prop :=
  ∀ x y x' y' : BitVec 4, i = .setPixel x y colour → j = .setPixel x' y' colour → y < y' ∨ (y = y' ∧ x < x')

theorem pixelBefore_setPixel_iff {colour : BitVec 3} {x y x' y' : BitVec 4} :
    PixelBefore colour (.setPixel x y colour) (.setPixel x' y' colour) ↔ y < y' ∨ (y = y' ∧ x < x') := by
  constructor
  · intro hbefore
    exact hbefore x y x' y' rfl rfl
  · rintro horder _ _ _ _ ⟨⟩ ⟨⟩
    exact horder

/-- The columns of one row are emitted in ascending order. -/
theorem drawRow_ascending (x1 x2 y : Nat) (colour : BitVec 3) :
    ((inclusive x1 x2).flatMap fun x => emitPixel x y colour).Pairwise (PixelBefore colour) := by
  refine List.pairwise_flatMap.mpr ⟨fun x _ => emitPixel_pairwise _ x y colour, ?_⟩
  refine (inclusive_ascending x1 x2).imp fun hlt i hi j hj => ?_
  obtain ⟨-, -, rfl⟩ := mem_emitPixel.mp hi
  obtain ⟨hx', -, rfl⟩ := mem_emitPixel.mp hj
  exact pixelBefore_setPixel_iff.mpr (.inr ⟨rfl, coord_lt_coord hlt hx'⟩)

theorem mem_drawRow {x1 x2 y : Nat} {colour : BitVec 3} {i : Instr} :
    (i ∈ (inclusive x1 x2).flatMap fun x => emitPixel x y colour) ↔
      ∃ x, x1 ≤ x ∧ x ≤ x2 ∧ x ≤ 11 ∧ y ≤ 11 ∧ i = .setPixel (.ofNat 4 x) (.ofNat 4 y) colour := by
  simp only [List.mem_flatMap, mem_inclusive, mem_emitPixel, and_assoc]

theorem mem_drawRect {x1 y1 x2 y2 : Nat} {colour : BitVec 3} {i : Instr} :
    i ∈ drawRect x1 y1 x2 y2 colour ↔
      ∃ x y, x1 ≤ x ∧ x ≤ x2 ∧ y1 ≤ y ∧ y ≤ y2 ∧ x ≤ 11 ∧ y ≤ 11 ∧
        i = .setPixel (.ofNat 4 x) (.ofNat 4 y) colour := by
  simp only [drawRect, List.mem_flatMap (l := inclusive y1 y2), mem_inclusive, mem_drawRow]
  constructor
  · rintro ⟨y, ⟨hy1, hy2⟩, x, hx1, hx2, hmatrix⟩
    exact ⟨x, y, hx1, hx2, hy1, hy2, hmatrix⟩
  · rintro ⟨x, y, hx1, hx2, hy1, hy2, hmatrix⟩
    exact ⟨y, ⟨hy1, hy2⟩, x, hx1, hx2, hmatrix⟩

/-- Rows are emitted in ascending order, and each row in the order of its columns. -/
theorem drawRect_ascending (x1 y1 x2 y2 : Nat) (colour : BitVec 3) :
    (drawRect x1 y1 x2 y2 colour).Pairwise (PixelBefore colour) := by
  refine List.pairwise_flatMap.mpr ⟨fun y _ => drawRow_ascending x1 x2 y colour, ?_⟩
  refine (inclusive_ascending y1 y2).imp fun hlt i hi j hj => ?_
  obtain ⟨x, -, -, -, -, rfl⟩ := mem_drawRow.mp hi
  obtain ⟨x', -, -, -, hy', rfl⟩ := mem_drawRow.mp hj
  exact pixelBefore_setPixel_iff.mpr (.inl (coord_lt_coord hlt hy'))

end Sys2Proof.Machine

open Sys2Proof Sys2Proof.Machine

/-- Settles O58: the members of the emitted list are the block's pixels on the matrix, and the list is strictly
ascending, which is why each is emitted once. -/
theorem drawRectIssuesExactlyTheBlock : Obligations.DrawRectIssuesExactlyTheBlock := by
  intro x1 y1 x2 y2 colour
  exact ⟨fun _ => mem_drawRect, drawRect_ascending x1 y1 x2 y2 colour⟩
end

section
/-! PROOFS. The coordinate map and its inverse (40_mapper.md R120, R123, R124). -/

namespace Sys2Proof.Machine

/-- The pairs of a coordinate and its triple, by quadrant of the matrix, with the row and the coordinate both given by
the triple's `r` and by one offset `k`. `mapper` and `unmapper` read this one table in the two directions
(`mapper_eq_of_quadrant`, `unmapper_eq_of_quadrant`). -/
inductive Quadrant : Nat → Nat → MapPos → Prop
  | upperLeft {r k : Nat} (hr : r ≤ 5) (hk : k ≤ 3) : Quadrant k r ⟨r, 3, k + 4⟩
  | lowerLeft {r k : Nat} (hr : r ≤ 5) (hk : k ≤ 3) : Quadrant k (r + 6) ⟨r, 3, k⟩
  | upperRight {r k : Nat} (hr : r ≤ 5) (hk : k ≤ 7) : Quadrant (k + 4) r ⟨r, 0, k⟩
  | lowerRight {r k : Nat} (hr : r ≤ 5) (hk : k ≤ 7) : Quadrant (k + 4) (r + 6) ⟨r, 6, k⟩

theorem mapper_left_upper {x y : Nat} (hx : x < 4) (hy : y < 6) : mapper x y = ⟨y % 6, 3, 4 + x⟩ := by
  simp only [mapper, if_pos hx, if_pos hy]

theorem mapper_left_lower {x y : Nat} (hx : x < 4) (hy : 6 ≤ y) : mapper x y = ⟨y % 6, 3, x⟩ := by
  simp only [mapper, if_pos hx, if_neg (Nat.not_lt.mpr hy)]

theorem mapper_right_upper {x y : Nat} (hx : 4 ≤ x) (hy : y < 6) : mapper x y = ⟨y % 6, 0, x - 4⟩ := by
  simp only [mapper, if_neg (Nat.not_lt.mpr hx), if_pos hy]

theorem mapper_right_lower {x y : Nat} (hx : 4 ≤ x) (hy : 6 ≤ y) : mapper x y = ⟨y % 6, 6, x - 4⟩ := by
  simp only [mapper, if_neg (Nat.not_lt.mpr hx), if_neg (Nat.not_lt.mpr hy)]

theorem unmapper_byte_zero (r b : Nat) : unmapper ⟨r, 0, b⟩ = (b + 4, r) := rfl

theorem unmapper_byte_six (r b : Nat) : unmapper ⟨r, 6, b⟩ = (b + 4, r + 6) := rfl

theorem unmapper_byte_three_high (r : Nat) {b : Nat} (hb : 4 ≤ b) : unmapper ⟨r, 3, b⟩ = (b - 4, r) := if_pos hb

theorem unmapper_byte_three_low (r : Nat) {b : Nat} (hb : b ≤ 3) : unmapper ⟨r, 3, b⟩ = (b, r + 6) :=
  if_neg (Nat.not_le.mpr (Nat.lt_succ_of_le hb))

theorem mapper_eq_of_quadrant {x y : Nat} {m : MapPos} (hq : Quadrant x y m) : mapper x y = m := by
  cases hq with
  | upperLeft hr hk =>
    rw [mapper_left_upper (by omega) (by omega), Nat.mod_eq_of_lt (by omega), Nat.add_comm]
  | lowerLeft hr hk =>
    rw [mapper_left_lower (by omega) (by omega), Nat.add_mod_right, Nat.mod_eq_of_lt (by omega)]
  | upperRight hr hk =>
    rw [mapper_right_upper (by omega) (by omega), Nat.mod_eq_of_lt (by omega), Nat.add_sub_cancel]
  | lowerRight hr hk =>
    rw [mapper_right_lower (by omega) (by omega), Nat.add_mod_right, Nat.mod_eq_of_lt (by omega), Nat.add_sub_cancel]

theorem unmapper_eq_of_quadrant {x y : Nat} {m : MapPos} (hq : Quadrant x y m) : unmapper m = (x, y) := by
  cases hq with
  | upperLeft hr hk => rw [unmapper_byte_three_high _ (by omega), Nat.add_sub_cancel]
  | lowerLeft hr hk => exact unmapper_byte_three_low _ hk
  | upperRight hr hk => exact unmapper_byte_zero ..
  | lowerRight hr hk => exact unmapper_byte_six ..

/-- Every coordinate of the matrix lies in a quadrant, which is the one `mapper` puts it in. -/
theorem quadrant_mapper {x y : Nat} (hx : x ≤ 11) (hy : y ≤ 11) : Quadrant x y (mapper x y) := by
  suffices hcover : ∃ m, Quadrant x y m by
    obtain ⟨m, hq⟩ := hcover
    rwa [mapper_eq_of_quadrant hq]
  rcases Nat.lt_or_ge x 4 with hleft | hright
  · rcases Nat.lt_or_ge y 6 with hupper | hlower
    · exact ⟨_, .upperLeft (by omega) (by omega)⟩
    · obtain ⟨r, rfl⟩ := Nat.exists_eq_add_of_le' hlower
      exact ⟨_, .lowerLeft (by omega) (by omega)⟩
  · obtain ⟨k, rfl⟩ := Nat.exists_eq_add_of_le' hright
    rcases Nat.lt_or_ge y 6 with hupper | hlower
    · exact ⟨_, .upperRight (by omega) (by omega)⟩
    · obtain ⟨r, rfl⟩ := Nat.exists_eq_add_of_le' hlower
      exact ⟨_, .lowerRight (by omega) (by omega)⟩

/-- Every triple belongs to a quadrant: the byte group tells which, and for group 3 the bit. -/
theorem exists_quadrant_of_triple {m : MapPos} (hrow : m.row ≤ 5) (hbyte : m.byte ∈ [0, 3, 6]) (hbit : m.bit ≤ 7) :
    ∃ x y, Quadrant x y m := by
  obtain ⟨r, g, b⟩ := m
  simp only [List.mem_cons, List.not_mem_nil, or_false] at hrow hbyte hbit
  rcases hbyte with rfl | rfl | rfl
  · exact ⟨_, _, .upperRight hrow hbit⟩
  · rcases Nat.lt_or_ge b 4 with hlow | hhigh
    · exact ⟨_, _, .lowerLeft hrow (by omega)⟩
    · obtain ⟨k, rfl⟩ := Nat.exists_eq_add_of_le' hhigh
      exact ⟨_, _, .upperLeft hrow (by omega)⟩
  · exact ⟨_, _, .lowerRight hrow hbit⟩

/-- What a quadrant pairs is a coordinate of the matrix, on a row of the triple's row-pair (R121). -/
theorem coord_of_quadrant {x y : Nat} {m : MapPos} (hq : Quadrant x y m) :
    x ≤ 11 ∧ y ≤ 11 ∧ (y = m.row ∨ y = m.row + 6) := by
  cases hq with
  | upperLeft hr hk => exact ⟨by omega, by omega, .inl rfl⟩
  | lowerLeft hr hk => exact ⟨by omega, by omega, .inr rfl⟩
  | upperRight hr hk => exact ⟨by omega, by omega, .inl rfl⟩
  | lowerRight hr hk => exact ⟨by omega, by omega, .inr rfl⟩

theorem triple_of_quadrant {x y : Nat} {m : MapPos} (hq : Quadrant x y m) :
    m.row ≤ 5 ∧ m.byte ∈ [0, 3, 6] ∧ m.bit ≤ 7 := by
  cases hq with
  | upperLeft hr hk => exact ⟨hr, by simp, Nat.add_le_add_right hk 4⟩
  | lowerLeft hr hk => exact ⟨hr, by simp, hk.trans (by decide)⟩
  | upperRight hr hk => exact ⟨hr, by simp, hk⟩
  | lowerRight hr hk => exact ⟨hr, by simp, hk⟩

theorem unmapper_mapper {x y : Nat} (hx : x ≤ 11) (hy : y ≤ 11) : unmapper (mapper x y) = (x, y) :=
  unmapper_eq_of_quadrant (quadrant_mapper hx hy)

/-- `mapper` is injective on the matrix, because `unmapper` takes it back. -/
theorem mapper_injOn {x y x' y' : Nat} (hx : x ≤ 11) (hy : y ≤ 11) (hx' : x' ≤ 11) (hy' : y' ≤ 11)
    (heq : mapper x y = mapper x' y') : x = x' ∧ y = y' := by
  have hcoord : (x, y) = (x', y') := by rw [← unmapper_mapper hx hy, heq, unmapper_mapper hx' hy']
  exact Prod.mk.inj hcoord

/-- `mapper` reaches every triple, from a coordinate of its row-pair. -/
theorem mapper_surjOn {m : MapPos} (hrow : m.row ≤ 5) (hbyte : m.byte ∈ [0, 3, 6]) (hbit : m.bit ≤ 7) :
    ∃ x y, x ≤ 11 ∧ y ≤ 11 ∧ mapper x y = m ∧ (y = m.row ∨ y = m.row + 6) ∧ unmapper m = (x, y) := by
  obtain ⟨x, y, hq⟩ := exists_quadrant_of_triple hrow hbyte hbit
  obtain ⟨hx, hy, hpair⟩ := coord_of_quadrant hq
  exact ⟨x, y, hx, hy, mapper_eq_of_quadrant hq, hpair, unmapper_eq_of_quadrant hq⟩

/-- The quadrant table of R120 in the form of its four rows. -/
theorem mapper_table (x y : Nat) : (mapper x y).row = y % 6 ∧
    (x < 4 → y < 6 → (mapper x y).byte = 3 ∧ (mapper x y).bit = 4 + x) ∧
    (x < 4 → 6 ≤ y → (mapper x y).byte = 3 ∧ (mapper x y).bit = x) ∧
    (4 ≤ x → y < 6 → (mapper x y).byte = 0 ∧ (mapper x y).bit + 4 = x) ∧
    (4 ≤ x → 6 ≤ y → (mapper x y).byte = 6 ∧ (mapper x y).bit + 4 = x) := by
  refine ⟨rfl, fun hx hy => ?_, fun hx hy => ?_, fun hx hy => ?_, fun hx hy => ?_⟩
  · rw [mapper_left_upper hx hy]
    exact ⟨rfl, rfl⟩
  · rw [mapper_left_lower hx hy]
    exact ⟨rfl, rfl⟩
  · rw [mapper_right_upper hx hy]
    exact ⟨rfl, Nat.sub_add_cancel hx⟩
  · rw [mapper_right_lower hx hy]
    exact ⟨rfl, Nat.sub_add_cancel hx⟩

end Sys2Proof.Machine

open Sys2Proof Sys2Proof.Machine

/-- Settles O13: `mapper` and `unmapper` read the same table of quadrants, which covers the coordinates and the
triples, so each undoes the other. -/
theorem mapIsABijection : Obligations.MapIsABijection := by
  refine ⟨fun x y _ _ => mapper_table x y, fun r b _ _ => ?_, fun x y hx hy => ?_,
    fun m hrow hbyte hbit => mapper_surjOn hrow hbyte hbit,
    fun x y x' y' hx hy hx' hy' heq => mapper_injOn hx hy hx' hy' heq⟩
  · exact ⟨unmapper_byte_zero r b, unmapper_byte_six r b, unmapper_byte_three_high r, unmapper_byte_three_low r⟩
  · obtain ⟨hrow, hbyte, hbit⟩ := triple_of_quadrant (quadrant_mapper hx hy)
    exact ⟨hrow, hbyte, hbit, unmapper_mapper hx hy⟩
end

section
/-! PROOFS. Channel indices and address codes: legal codes are distinct and none is `000` or `111` (00_scope.md R11), so
`resolve` (41_multiplexer.md R146) and `chan` (R149) undo each other on the six channels. -/

namespace Sys2Proof

/-- A legal code is neither the deselected code `000` nor the all-high code `111` (R11). -/
theorem chAddr_ne_zero_and_ne_seven {p : Params} (hlegal : p.chAddrLegal = true) {n : Nat} (hn : n < 6) :
    p.chAddr[n] ≠ 0 ∧ p.chAddr[n] ≠ 7 := by
  simp only [Params.chAddrLegal, Bool.and_eq_true, List.all_eq_true, decide_eq_true_eq] at hlegal
  obtain ⟨-, hreserved⟩ := hlegal
  exact hreserved _ (Vector.mem_toList_iff.mpr (Vector.getElem_mem hn))

/-- Legal codes are distinct (R11). -/
theorem chAddr_injective {p : Params} (hlegal : p.chAddrLegal = true) :
    Function.Injective fun c : Fin 6 => p.chAddr[c.val] := by
  simp only [Params.chAddrLegal, Bool.and_eq_true, decide_eq_true_eq] at hlegal
  obtain ⟨hnodup, -⟩ := hlegal
  intro c d hcode
  refine Fin.ext ((hnodup.getElem_inj_iff (hi := by simp) (hj := by simp)).mp ?_)
  simpa only [Vector.getElem_toList] using hcode

theorem resolve_of_lt (p : Params) {ch : BitVec 4} (hch : ch.toNat < 6) : resolve p ch = p.chAddr[ch.toNat] :=
  dif_pos hch

theorem resolve_of_ge (p : Params) {ch : BitVec 4} (hch : 6 ≤ ch.toNat) : resolve p ch = 0 :=
  dif_neg (Nat.not_lt.mpr hch)

theorem resolve_ofNat (p : Params) (c : Fin 6) : resolve p (BitVec.ofNat 4 c.val) = p.chAddr[c.val] := by
  have htoNat : (BitVec.ofNat 4 c.val).toNat = c.val := by
    rw [BitVec.toNat_ofNat]
    omega
  simp only [resolve_of_lt p (htoNat.trans_lt c.isLt), htoNat]

/-- Both kinds of index avoid the all-high code: a channel's code by R11, the deselected one by its value. -/
theorem resolve_ne_seven {p : Params} (hlegal : p.chAddrLegal = true) (ch : BitVec 4) : resolve p ch ≠ 7 := by
  rcases Nat.lt_or_ge ch.toNat 6 with hchannel | hother
  · rw [resolve_of_lt p hchannel]
    exact (chAddr_ne_zero_and_ne_seven hlegal hchannel).2
  · rw [resolve_of_ge p hother]
    decide

/-- A channel's code is read as that channel, whichever the search meets first, because no other has the same code. -/
theorem channelAt_of_chAddr_eq {p : Params} (hlegal : p.chAddrLegal = true) {c : Fin 6} {a : BitVec 3}
    (hcode : p.chAddr[c.val] = a) : channelAt p a = .channel c := by
  unfold channelAt
  split
  next d hfound =>
    have hsame : p.chAddr[d.val] = a := by simpa only [decide_eq_true_eq] using List.find?_some hfound
    rw [chAddr_injective hlegal (hsame.trans hcode.symm)]
  next hmissing =>
    have hne := List.find?_eq_none.mp hmissing c (List.mem_finRange c)
    exact absurd (decide_eq_true hcode) hne

/-- A code of no channel is read by its value alone. -/
theorem channelAt_of_forall_ne {p : Params} {a : BitVec 3} (hne : ∀ c : Fin 6, p.chAddr[c.val] ≠ a) :
    channelAt p a = if a = 0 then .none else if a = 7 then .allHigh else .unassigned := by
  have hmissing : ((List.finRange 6).find? fun c => p.chAddr[c.val] = a) = none :=
    List.find?_eq_none.mpr fun c _ => by simpa only [decide_eq_true_eq] using hne c
  simp only [channelAt, hmissing]

theorem channelAt_zero {p : Params} (hlegal : p.chAddrLegal = true) : channelAt p 0 = .none :=
  channelAt_of_forall_ne fun c => (chAddr_ne_zero_and_ne_seven hlegal c.isLt).1

theorem channelAt_seven {p : Params} (hlegal : p.chAddrLegal = true) : channelAt p 7 = .allHigh :=
  channelAt_of_forall_ne fun c => (chAddr_ne_zero_and_ne_seven hlegal c.isLt).2

/-- The default codes count the channels from 1. -/
theorem default_chAddr_getElem (c : Fin 6) :
    (#v[1, 2, 3, 4, 5, 6] : Vector (BitVec 3) 6)[c.val] = BitVec.ofNat 3 (c.val + 1) := by
  revert c
  decide

/-- With the default codes, `chan(A) = A − 1` for `A` in `1..6`. -/
theorem channelAt_default {p : Params} (hlegal : p.chAddrLegal = true) (hdefault : p.chAddr = #v[1, 2, 3, 4, 5, 6])
    {a : BitVec 3} (hlow : 1 ≤ a.toNat) (hhigh : a.toNat ≤ 6) :
    channelAt p a = .channel ⟨a.toNat - 1, by omega⟩ := by
  refine channelAt_of_chAddr_eq hlegal ?_
  simp only [hdefault]
  rw [default_chAddr_getElem ⟨a.toNat - 1, by omega⟩, Nat.sub_add_cancel hlow, BitVec.ofNat_toNat, BitVec.setWidth_eq]

end Sys2Proof

open Sys2Proof

/-- Settles O21: a channel's code is its own alone and neither `000` nor `111`, so each code reads back as one state. -/
theorem channelCodesResolveAndReadBack : Obligations.ChannelCodesResolveAndReadBack := by
  intro p hlegal
  exact ⟨fun c => ⟨resolve_ofNat p c, channelAt_of_chAddr_eq hlegal rfl⟩, fun _ hother => resolve_of_ge p hother,
    resolve_ne_seven hlegal, channelAt_zero hlegal, channelAt_seven hlegal,
    fun hdefault _ hlow hhigh => ⟨_, rfl, channelAt_default hlegal hdefault hlow hhigh⟩⟩
end

section
/-! PROOFS. One bit of a transfer (42_serializer.md R161 to R163, R165): the fault check before a byte, the bit of the
stream that leaves when it passes, and the abort (60_exceptions.md R248) when it fails. -/

namespace Sys2Proof.Machine

/-- Bit `j` of the stream: byte `j div 8`, most significant bit first (42_serializer.md R162). -/
theorem streamBit_of_lt (row : Row) {j : Nat} (hj : j < 72) :
    Row.streamBit row j = (row[j / 8]'(by omega)).getLsbD (7 - j % 8) := by
  simp only [Row.streamBit, byteAt_lt row (show j / 8 < 9 by omega)]

/-- The fault check fails exactly at a byte boundary with `BUS_FAULT = 1` (42_serializer.md R165). -/
theorem faultSampled_eq_true_iff {s : State} :
    s.faultSampled = true ↔ s.txpos.val % 8 = 0 ∧ s.inputs.busFault = true := by
  simp [State.faultSampled]

theorem faultSampled_eq_false_iff {s : State} :
    s.faultSampled = false ↔ (s.txpos.val % 8 = 0 → s.inputs.busFault = false) := by
  simp [State.faultSampled]

/-- The bit step before a byte with `BUS_FAULT = 1` is the abort. -/
theorem shiftBitStep_of_faultSampled {s : State} (hpos : s.txpos.val < 72) (hfault : s.faultSampled = true) :
    s.shiftBitStep = s.transportFault := by
  simp only [State.shiftBitStep, dif_pos hpos, if_pos hfault]

/-- The bit step without a fault sends the bit at `TXPOS` and is put back while bits are left. -/
theorem shiftBitStep_of_not_faultSampled {s : State} (hpos : s.txpos.val < 72) (hfault : s.faultSampled = false) :
    s.shiftBitStep = { s.sendBit (Row.streamBit s.txbuf s.txpos.val) with
      txpos := ⟨s.txpos.val + 1, by omega⟩
      progress := if s.txpos.val + 1 < 72 then .shiftBit :: s.progress else s.progress } := by
  simp only [State.shiftBitStep, dif_pos hpos, hfault, Bool.false_eq_true, if_false]

/-- Everything the sequencer's step of an unfaulted bit does: the wait before it passes, the bit is sent, and the
transfer goes on until its 72nd bit. -/
theorem sequencerStep_sends_bit {s : State} {rest : List BusStep} (hprog : s.progress = .shiftBit :: rest)
    (hpos : s.txpos.val < 72) (hfault : s.faultSampled = false) :
    sequencerStep s = { s with
      waitCount := 0, cycles := s.cycles + s.waitCount + s.params.tSck
      txpos := ⟨s.txpos.val + 1, by omega⟩
      progress := if s.txpos.val = 71 then rest else s.progress
      pins := { s.pins with ser := Row.streamBit s.txbuf s.txpos.val, sck := false }
      board := { s.board with shifted := s.board.shifted ++ [Row.streamBit s.txbuf s.txpos.val] }
      trace := (s.cycles + s.waitCount + s.params.tSck, .sck false) ::
        (s.cycles + s.waitCount + s.params.tSck / 2, .sck true) ::
        (s.cycles + s.waitCount, .ser (Row.streamBit s.txbuf s.txpos.val)) :: s.trace } := by
  have hnext : (if s.txpos.val + 1 < 72 then .shiftBit :: rest else rest) =
      if s.txpos.val = 71 then rest else s.progress := by
    by_cases hlast : s.txpos.val = 71
    · rw [if_pos hlast, if_neg (by omega)]
    · rw [if_neg hlast, if_pos (by omega), hprog]
  rw [sequencerStep_waited hprog, State.perform, shiftBitStep_of_not_faultSampled (by exact hpos) (by exact hfault),
    sendBit_effect, ← hnext]

/-- Everything the sequencer's step does when the fault check before a byte fails: the wait before it passes and the
command is aborted. -/
theorem sequencerStep_aborts_transfer {s : State} {rest : List BusStep} (hprog : s.progress = .shiftBit :: rest)
    (hpos : s.txpos.val < 72) (hfault : s.faultSampled = true) :
    sequencerStep s = { s with
      fault := true, busy := false, runop := 0, progress := [], waitCount := 0
      pins := { a := 0, ser := false, sck := false, lat := s.params.latIdle }
      board := { s.board with shifted := Config.shiftStage s.freeDraws }, freeDraws := s.freeDraws + 1
      cycles := s.cycles + s.waitCount
      trace := (s.cycles + s.waitCount, .addr 0) :: (s.cycles + s.waitCount, .lat s.params.latIdle) ::
        (s.cycles + s.waitCount, .sck false) :: (s.cycles + s.waitCount, .ser false) :: s.trace } := by
  rw [sequencerStep_waited hprog, State.perform, shiftBitStep_of_faultSampled (by exact hpos) (by exact hfault),
    transportFault_all]

end Sys2Proof.Machine

open Sys2Proof Sys2Proof.Machine

/-- Settles O25: without a sampled fault the sequencer's step is the sending of one bit, and the bit of the stream at
`TXPOS` is the bit of `TXBUF` that R162 names. -/
theorem shiftBitSendsTheStreamInOrder : Obligations.ShiftBitSendsTheStreamInOrder := by
  intro s rest hpos hprog hbus
  rw [← streamBit_of_lt s.txbuf hpos, sequencerStep_sends_bit hprog hpos (faultSampled_eq_false_iff.mpr hbus)]
  exact ⟨rfl, rfl, rfl, rfl, rfl, rfl⟩

/-- Settles O47: with `BUS_FAULT = 1` at a byte boundary the sequencer's step is the abort, whose only free value is the
board's shift stage. -/
theorem transportFaultAbortsTheCommand : Obligations.TransportFaultAbortsTheCommand := by
  intro s rest hprog hpos hbyte hbus
  rw [sequencerStep_aborts_transfer hprog hpos (faultSampled_eq_true_iff.mpr ⟨hbyte, hbus⟩)]
  exact ⟨rfl, rfl⟩
end

section
/-! PROOFS. One debounce step of a cell (44_debounce.md R200, R201) as a function of what the cell holds, its sample and
the threshold, and what it offers to the event queue (R204). -/

namespace Sys2Proof.Machine

/-- What the debounce engine holds of one cell (44_debounce.md R200). -/
structure CellState where
  prev : Bool
  cnt : Byte
  stable : Bool

/-- `PREV`, `CNT` and `STABLE` of a cell. -/
def State.cellState (s : State) (y x : Fin 12) : CellState where
  prev := s.prev.cell y x
  cnt := s.cnt.cell y x
  stable := s.stable.cell y x

/-- Two states hold the same of a cell exactly when its `PREV`, `CNT` and `STABLE` agree. -/
theorem cellState_eq_iff {s t : State} {y x : Fin 12} :
    t.cellState y x = s.cellState y x ↔
      t.prev.cell y x = s.prev.cell y x ∧ t.cnt.cell y x = s.cnt.cell y x ∧ t.stable.cell y x = s.stable.cell y x := by
  simp only [State.cellState, CellState.mk.injEq]

/-- `CNT` after the sample `r`. -/
def CellState.count (k : CellState) (r : Bool) : Byte := nextCount (r == k.prev) k.cnt

/-- Whether the sample `r` is committed: `CNT` reaches the threshold and `STABLE` differs (R201). -/
def CellState.commits (threshold : Byte) (k : CellState) (r : Bool) : Bool :=
  decide (threshold ≤ k.count r ∧ k.stable ≠ r)

/-- The cell after the sample `r` (R201); `debounceCell_cellState_self` ties it to the model's step. -/
def CellState.advance (threshold : Byte) (k : CellState) (r : Bool) : CellState where
  prev := r
  cnt := k.count r
  stable := if k.commits threshold r then r else k.stable

@[simp] theorem CellState.advance_prev (d : Byte) (k : CellState) (r : Bool) : (k.advance d r).prev = r := rfl

theorem CellState.advance_stable (d : Byte) (k : CellState) (r : Bool) :
    (k.advance d r).stable = if k.commits d r then r else k.stable := rfl

theorem CellState.commits_iff {d : Byte} {k : CellState} {r : Bool} :
    k.commits d r = true ↔ d.toNat ≤ (k.count r).toNat ∧ k.stable ≠ r := by
  rw [CellState.commits, decide_eq_true_eq, BitVec.le_def]

/-- The counter in numbers: it saturates at `CNT_MAX = 255` (00_scope.md R16). -/
theorem CellState.count_toNat (k : CellState) (r : Bool) :
    (k.count r).toNat = if r = k.prev then min (k.cnt.toNat + 1) 255 else 0 := by
  unfold CellState.count nextCount Config.cntMax
  by_cases hmatch : r = k.prev
  · simp only [hmatch, beq_self_eq_true, if_true]
    split <;> bv_omega
  · rw [if_neg (by simpa using hmatch), if_neg hmatch]
    rfl

/-! ### The queue -/

/-- From `s` to `t` the events `es` were offered to the queue in this order: those that have room are queued, and `OVF`
is set if one is dropped (R204). -/
def Queued (s t : State) (es : List Event) : Prop :=
  t.evq = s.evq ++ es.take (s.params.evqDepth - s.evq.length) ∧
  t.ovf = (s.ovf || decide (s.params.evqDepth - s.evq.length < es.length))

theorem Queued.nil {s t : State} (hevq : t.evq = s.evq) (hovf : t.ovf = s.ovf) : Queued s t [] :=
  ⟨by simp [hevq], by simp [hovf]⟩

theorem Queued.of_nil {s t : State} (h : Queued s t []) : t.evq = s.evq ∧ t.ovf = s.ovf := by
  obtain ⟨hevq, hovf⟩ := h
  simpa using And.intro hevq hovf

/-- Offers made one after the other add up. -/
theorem Queued.append {s t u : State} {es fs : List Event} (hst : Queued s t es) (htu : Queued t u fs)
    (hparams : t.params = s.params) : Queued s u (es ++ fs) := by
  obtain ⟨hevq, hovf⟩ := hst
  obtain ⟨hevq', hovf'⟩ := htu
  have hroom : t.params.evqDepth - t.evq.length = s.params.evqDepth - s.evq.length - es.length := by
    rw [hparams, hevq, List.length_append, List.length_take]
    omega
  constructor
  · rw [hevq', hroom, hevq, List.take_append, List.append_assoc]
  · rw [hovf', hroom, hovf, List.length_append, Bool.or_assoc, ← Bool.decide_or]
    congr 2
    exact propext (by omega)

theorem pushEvent_queued (s : State) (e : Event) : Queued s (s.pushEvent e) [e] := by
  rcases pushEvent_cases s e with ⟨hroom, h⟩ | ⟨hfull, h⟩
  · rw [h]
    exact ⟨by rw [List.take_of_length_le (by simp; omega)], by simp; omega⟩
  · rw [h]
    exact ⟨by simp [Nat.sub_eq_zero_of_le hfull], by simp [Nat.sub_eq_zero_of_le hfull]⟩

/-- An event offered on its own is queued if there is room. -/
theorem Queued.of_room {s t : State} {e : Event} (h : Queued s t [e]) (hroom : s.evq.length < s.params.evqDepth) :
    t.evq = s.evq ++ [e] ∧ t.ovf = s.ovf := by
  obtain ⟨hevq, hovf⟩ := h
  have hone : 1 ≤ s.params.evqDepth - s.evq.length := by omega
  rw [hevq, hovf, List.take_of_length_le hone, List.length_singleton, decide_eq_false (by omega), Bool.or_false]
  exact ⟨rfl, rfl⟩

theorem Queued.of_full {s t : State} {e : Event} (h : Queued s t [e]) (hfull : s.params.evqDepth ≤ s.evq.length) :
    t.evq = s.evq ∧ t.ovf = true := by
  obtain ⟨hevq, hovf⟩ := h
  simp [hevq, hovf, Nat.sub_eq_zero_of_le hfull]

/-! ### The step of a cell -/

/-- Whether the next step of a cell commits its sample. -/
def State.cellCommits (s : State) (y x : Fin 12) : Bool :=
  (s.cellState y x).commits s.cfg.debThresh (s.raw.cell y x)

theorem cellEvent_eq (s : State) (y x : Fin 12) :
    s.cellEvent (y, x) = if s.cellCommits y x then some (commitEvent (s.raw.cell y x) y x) else none := by
  simp only [State.cellCommits, CellState.commits, decide_eq_true_eq]
  rfl

/-- `commitCell` reads the counter, the committed value and the sample after `countCell`. -/
theorem cellCommits_iff {s : State} {y x : Fin 12} :
    s.cellCommits y x = true ↔ (s.countCell y x).cfg.debThresh ≤ (s.countCell y x).cnt.cell y x ∧
      (s.countCell y x).stable.cell y x ≠ (s.countCell y x).raw.cell y x := by
  simp only [State.cellCommits, CellState.commits, decide_eq_true_eq, State.countCell, cell_setCell_self]
  rfl

theorem debounceCell_of_commits {s : State} {y x : Fin 12} (h : s.cellCommits y x = true) :
    s.debounceCell y x =
      State.pushEvent { s.countCell y x with stable := s.stable.setCell y x (s.raw.cell y x) }
        (commitEvent (s.raw.cell y x) y x) :=
  if_pos (cellCommits_iff.mp h)

theorem debounceCell_of_not_commits {s : State} {y x : Fin 12} (h : s.cellCommits y x = false) :
    s.debounceCell y x = s.countCell y x :=
  if_neg (mt cellCommits_iff.mpr (by rw [h]; exact Bool.false_ne_true))

theorem debounceCell_queued (s : State) (y x : Fin 12) :
    Queued s (s.debounceCell y x) (s.cellEvent (y, x)).toList := by
  rw [cellEvent_eq]
  cases h : s.cellCommits y x with
  | true =>
    rw [debounceCell_of_commits h]
    exact pushEvent_queued _ _
  | false =>
    rw [debounceCell_of_not_commits h]
    exact .nil rfl rfl

theorem pushEvent_cellState (s : State) (e : Event) (y x : Fin 12) :
    (s.pushEvent e).cellState y x = s.cellState y x := by
  rcases pushEvent_cases s e with ⟨_, h⟩ | ⟨_, h⟩ <;> rw [h] <;> rfl

/-- What the step of cell `[y][x]` leaves in any cell. -/
theorem debounceCell_cellState (s : State) (y x y' x' : Fin 12) :
    (s.debounceCell y x).cellState y' x' =
      { prev := (s.prev.setCell y x (s.raw.cell y x)).cell y' x'
        cnt := (s.cnt.setCell y x ((s.cellState y x).count (s.raw.cell y x))).cell y' x'
        stable := (if s.cellCommits y x then s.stable.setCell y x (s.raw.cell y x) else s.stable).cell y' x' } := by
  cases h : s.cellCommits y x with
  | true => rw [debounceCell_of_commits h, pushEvent_cellState]; rfl
  | false => rw [debounceCell_of_not_commits h]; rfl

theorem debounceCell_cellState_self (s : State) (y x : Fin 12) :
    (s.debounceCell y x).cellState y x = (s.cellState y x).advance s.cfg.debThresh (s.raw.cell y x) := by
  rw [debounceCell_cellState, cell_setCell_self, cell_setCell_self, apply_ite (Grid.cell · y x), cell_setCell_self]
  rfl

/-- The step of a cell changes no other (R200). -/
theorem debounceCell_cellState_other (s : State) {y x y' x' : Fin 12} (hne : ¬ (y' = y ∧ x' = x)) :
    (s.debounceCell y x).cellState y' x' = s.cellState y' x' := by
  rw [debounceCell_cellState, cell_setCell_other _ _ hne, cell_setCell_other _ _ hne, apply_ite (Grid.cell · y' x'),
    cell_setCell_other _ _ hne, ite_self]
  rfl

end Sys2Proof.Machine

open Sys2Proof Sys2Proof.Machine

/-- Settles O34: the cell is advanced by its sample, and the event of a commit is offered to the queue. -/
theorem debounceCellFollowsTheStateMachine : Obligations.DebounceCellFollowsTheStateMachine := by
  intro s y x r count commits t
  have hcount : ((s.cellState y x).count r).toNat = count := CellState.count_toNat _ _
  have hcommits : s.cellCommits y x = true ↔ commits := by
    rw [State.cellCommits, CellState.commits_iff, hcount]
    rfl
  have hcell : t.cellState y x = (s.cellState y x).advance s.cfg.debThresh r := debounceCell_cellState_self s y x
  have hprev : t.prev.cell y x = r := congrArg CellState.prev hcell
  have hcnt : t.cnt.cell y x = (s.cellState y x).count r := congrArg CellState.cnt hcell
  have hstable : t.stable.cell y x = if s.cellCommits y x then r else s.stable.cell y x :=
    congrArg CellState.stable hcell
  have hqueue : Queued s t (s.cellEvent (y, x)).toList := debounceCell_queued s y x
  rw [cellEvent_eq] at hqueue
  refine ⟨hcnt ▸ hcount, hprev, fun hc => ?_, fun hc => ?_⟩
  · rw [if_pos (hcommits.mpr hc)] at hstable hqueue
    exact ⟨hstable, hqueue.of_room, hqueue.of_full⟩
  · rw [if_neg (mt hcommits.mp hc)] at hstable hqueue
    exact ⟨hstable, hqueue.of_nil⟩

/-- Settles O35: what the step makes of a cell is `CellState.advance` of what the cell held, and the other cells stay. -/
theorem debounceCellsAreIndependent : Obligations.DebounceCellsAreIndependent := by
  intro s y x t
  refine ⟨?_, fun y' x' hne => cellState_eq_iff.mp (debounceCell_cellState_other s hne), ?_⟩
  · obtain ⟨c, p, st, q, o, h⟩ := debounceCell_frame s y x
    simp only [t, h]
  · intro s' hthresh hraw hprev hcnt hstable t'
    refine cellState_eq_iff.mp ?_
    have hcell : s'.cellState y x = s.cellState y x := cellState_eq_iff.mpr ⟨hprev, hcnt, hstable⟩
    rw [debounceCell_cellState_self, debounceCell_cellState_self, hthresh, hraw, hcell]
end

section
/-! PROOFS. The debounce pass (44_debounce.md R202): every cell is advanced once, from what it held before the pass, and
the events come in row-major order. -/

namespace Sys2Proof.Machine

/-! ### The cells of a pass -/

/-- The order of the cells in a pass: rows ascending, columns ascending within a row. -/
def CellBefore (c d : Fin 12 × Fin 12) : Prop := c.1 < d.1 ∨ (c.1 = d.1 ∧ c.2 < d.2)

theorem allCells_ascending : allCells.Pairwise CellBefore := by
  refine List.pairwise_flatMap.mpr ⟨fun y _ => ?_, ?_⟩
  · exact (List.pairwise_lt_finRange 12).map _ fun _ _ hlt => .inr ⟨rfl, hlt⟩
  · refine (List.pairwise_lt_finRange 12).imp fun hlt c hc d hd => ?_
    obtain ⟨_, -, rfl⟩ := List.mem_map.mp hc
    obtain ⟨_, -, rfl⟩ := List.mem_map.mp hd
    exact .inl hlt

theorem CellBefore.ne {c d : Fin 12 × Fin 12} (h : CellBefore c d) : c ≠ d := by
  rintro rfl
  rcases h with hlt | ⟨-, hlt⟩ <;> exact lt_irrefl _ hlt

theorem allCells_nodup : allCells.Nodup := allCells_ascending.imp CellBefore.ne

theorem mem_allCells (c : Fin 12 × Fin 12) : c ∈ allCells :=
  List.mem_flatMap.mpr ⟨c.1, List.mem_finRange _, List.mem_map.mpr ⟨c.2, List.mem_finRange _, rfl⟩⟩

theorem allCells_length : allCells.length = 144 := by
  simp [allCells]

/-! ### The pass as a run over a list of cells -/

/-- The debounce steps of the listed cells, one after the other; the pass is that of all cells. -/
def debounceCells (cells : List (Fin 12 × Fin 12)) (s : State) : State :=
  cells.foldl (fun s c => s.debounceCell c.1 c.2) s

theorem debouncePass_eq (s : State) : s.debouncePass = debounceCells allCells s := rfl

theorem debounceCell_constants (s : State) (y x : Fin 12) :
    (s.debounceCell y x).params = s.params ∧ (s.debounceCell y x).cfg = s.cfg ∧ (s.debounceCell y x).raw = s.raw := by
  obtain ⟨c, p, st, q, o, h⟩ := debounceCell_frame s y x
  rw [h]
  exact ⟨rfl, rfl, rfl⟩

theorem debouncePass_constants (s : State) : s.debouncePass.cfg = s.cfg ∧ s.debouncePass.raw = s.raw := by
  obtain ⟨c, p, st, q, o, h⟩ := debouncePass_frame s
  rw [h]
  exact ⟨rfl, rfl⟩

/-- What another cell's step leaves is stepped, and commits, as before (R200). -/
theorem debounceCell_next_other (s : State) {c d : Fin 12 × Fin 12} (hne : d ≠ c) :
    ((s.debounceCell c.1 c.2).debounceCell d.1 d.2).cellState d.1 d.2 = (s.debounceCell d.1 d.2).cellState d.1 d.2 ∧
    (s.debounceCell c.1 c.2).cellEvent d = s.cellEvent d := by
  obtain ⟨-, hcfg, hraw⟩ := debounceCell_constants s c.1 c.2
  have hcell := debounceCell_cellState_other s (mt Prod.ext_iff.mpr hne)
  constructor
  · rw [debounceCell_cellState_self, debounceCell_cellState_self, hcfg, hraw, hcell]
  · rw [cellEvent_eq, cellEvent_eq, State.cellCommits, State.cellCommits, hcfg, hraw, hcell]

theorem debounceCells_cellState_of_not_mem {cells : List (Fin 12 × Fin 12)} (s : State) {d : Fin 12 × Fin 12}
    (hd : d ∉ cells) : (debounceCells cells s).cellState d.1 d.2 = s.cellState d.1 d.2 := by
  induction cells generalizing s with
  | nil => rfl
  | cons c cells ih =>
    obtain ⟨hne, hrest⟩ := List.ne_and_not_mem_of_not_mem_cons hd
    exact (ih (s.debounceCell c.1 c.2) hrest).trans (debounceCell_cellState_other s (mt Prod.ext_iff.mpr hne))

/-- A listed cell ends where its own step from the first state leads, whatever cells come before and after it. -/
theorem debounceCells_cellState_of_mem {cells : List (Fin 12 × Fin 12)} (hnodup : cells.Nodup) (s : State)
    {d : Fin 12 × Fin 12} (hd : d ∈ cells) :
    (debounceCells cells s).cellState d.1 d.2 = (s.debounceCell d.1 d.2).cellState d.1 d.2 := by
  induction cells generalizing s with
  | nil => cases hd
  | cons c cells ih =>
    obtain ⟨hc, hcells⟩ := List.nodup_cons.mp hnodup
    change (debounceCells cells (s.debounceCell c.1 c.2)).cellState d.1 d.2 = _
    rcases List.mem_cons.mp hd with rfl | hd
    · exact debounceCells_cellState_of_not_mem _ hc
    · rw [ih hcells _ hd, (debounceCell_next_other s (ne_of_mem_of_not_mem hd hc)).1]

/-- The listed cells offer to the queue the events they would offer from the first state, in the order of the list. -/
theorem debounceCells_queued {cells : List (Fin 12 × Fin 12)} (hnodup : cells.Nodup) (s : State) :
    Queued s (debounceCells cells s) (cells.filterMap s.cellEvent) := by
  induction cells generalizing s with
  | nil => exact .nil rfl rfl
  | cons c cells ih =>
    obtain ⟨hc, hcells⟩ := List.nodup_cons.mp hnodup
    have hsame : cells.filterMap (s.debounceCell c.1 c.2).cellEvent = cells.filterMap s.cellEvent :=
      List.filterMap_congr fun d hd => (debounceCell_next_other s (ne_of_mem_of_not_mem hd hc)).2
    obtain ⟨hparams, -, -⟩ := debounceCell_constants s c.1 c.2
    rw [List.filterMap_eq_flatMap_toList, List.flatMap_cons, ← List.filterMap_eq_flatMap_toList, ← hsame]
    exact (debounceCell_queued s c.1 c.2).append (ih hcells _) hparams

theorem debouncePass_cellState (s : State) (y x : Fin 12) :
    s.debouncePass.cellState y x = (s.debounceCell y x).cellState y x := by
  rw [debouncePass_eq]
  exact debounceCells_cellState_of_mem (d := (y, x)) allCells_nodup s (mem_allCells _)

/-! ### The events of a pass -/

/-- The event of a cell names the cell. -/
theorem eq_commitEvent_of_cellEvent {s : State} {c : Fin 12 × Fin 12} {e : Event} (h : s.cellEvent c = some e) :
    e = commitEvent (s.raw.cell c.1 c.2) c.1 c.2 := by
  rw [cellEvent_eq] at h
  exact (Option.some.inj (Option.ite_none_right_eq_some.mp h).2).symm

theorem passEvents_ascending (s : State) :
    s.passEvents.Pairwise fun e f => e.y < f.y ∨ (e.y = f.y ∧ e.x < f.x) := by
  refine List.pairwise_filterMap.mpr (allCells_ascending.imp fun hbefore e he f hf => ?_)
  rw [eq_commitEvent_of_cellEvent he, eq_commitEvent_of_cellEvent hf]
  exact hbefore

theorem passEvents_length_le (s : State) : s.passEvents.length ≤ 144 :=
  (List.length_filterMap_le s.cellEvent allCells).trans_eq allCells_length

theorem cellEvent_filter_isOf (s : State) (c : Fin 12 × Fin 12) (y x : Fin 12) :
    ((s.cellEvent c).filter fun e => e.isOf y x) = if c == (y, x) then s.cellEvent c else none := by
  cases h : s.cellEvent c with
  | none => simp
  | some e =>
    have hcell : e.isOf y x = (c == (y, x)) := by
      rw [Bool.eq_iff_iff, beq_iff_eq, Prod.ext_iff, eq_commitEvent_of_cellEvent h]
      exact decide_eq_true_iff
    rw [Option.filter_some, hcell]

/-- Of the events of a pass, those of one cell are the event its own step offers. -/
theorem passEvents_filter_isOf (s : State) (y x : Fin 12) :
    (s.passEvents.filter fun e => e.isOf y x) = (s.cellEvent (y, x)).toList := by
  have hcells : (allCells.filter fun c => c == (y, x)) = [(y, x)] := by
    rw [List.filter_beq, List.count_eq_one_of_mem allCells_nodup (mem_allCells _), List.replicate_one]
  calc (s.passEvents.filter fun e => e.isOf y x)
      = allCells.filterMap fun c => (s.cellEvent c).filter fun e => e.isOf y x := List.filter_filterMap
    _ = (allCells.filter fun c => c == (y, x)).filterMap s.cellEvent := by
        simp only [cellEvent_filter_isOf, List.filterMap_filter]
    _ = (s.cellEvent (y, x)).toList := by
        rw [hcells, List.filterMap_eq_flatMap_toList, List.flatMap_singleton]

end Sys2Proof.Machine

open Sys2Proof Sys2Proof.Machine

/-- Settles O36: a run over cells that are listed once leaves each where its own step leads and offers their events in
the order of the list. -/
theorem debouncePassAdvancesEveryCellOnce : Obligations.DebouncePassAdvancesEveryCellOnce := by
  intro s t
  obtain ⟨hevq, hovf⟩ : Queued s t s.passEvents := debounceCells_queued allCells_nodup s
  exact ⟨fun y x => cellState_eq_iff.mp (debouncePass_cellState s y x), hevq, hovf, passEvents_ascending s,
    passEvents_length_le s, (debouncePass_constants s).2⟩
end

section
/-! PROOFS. A cell over a sequence of debounce passes (44_debounce.md R208, R209). -/

namespace Sys2Proof.Machine

/-! ### A cell in a sequence of passes -/

theorem cfg_with_raw (s : State) (g : Grid Bool) : { s with raw := g }.cfg = s.cfg := rfl

theorem cellState_with_raw (s : State) (g : Grid Bool) (y x : Fin 12) :
    State.cellState { s with raw := g } y x = s.cellState y x := rfl

theorem beforePass_raw (grids : Nat → Grid Bool) (s : State) (n : Nat) : (beforePass grids s n).raw = grids n := by
  cases n <;> rfl

theorem beforePass_cfg (grids : Nat → Grid Bool) (s : State) (n : Nat) : (beforePass grids s n).cfg = s.cfg := by
  induction n with
  | zero => rfl
  | succ n ih => rw [beforePass, cfg_with_raw, (debouncePass_constants _).1, ih]

/-- Each pass advances the cell by its sample of that pass. -/
theorem beforePass_cellState_succ (grids : Nat → Grid Bool) (s : State) (n : Nat) (y x : Fin 12) :
    (beforePass grids s (n + 1)).cellState y x =
      ((beforePass grids s n).cellState y x).advance s.cfg.debThresh ((grids n).cell y x) := by
  rw [beforePass, cellState_with_raw, debouncePass_cellState, debounceCell_cellState_self, beforePass_cfg, beforePass_raw]

/-- The events of a cell in pass `n`: one if it commits its sample. -/
theorem beforePass_passEvents_isOf (grids : Nat → Grid Bool) (s : State) (n : Nat) (y x : Fin 12) :
    ((beforePass grids s n).passEvents.filter fun e => e.isOf y x) =
      if ((beforePass grids s n).cellState y x).commits s.cfg.debThresh ((grids n).cell y x) then
        [commitEvent ((grids n).cell y x) y x] else [] := by
  rw [passEvents_filter_isOf, cellEvent_eq, State.cellCommits, beforePass_cfg, beforePass_raw,
    apply_ite Option.toList]
  rfl

/-! ### A changing sample -/

/-- A sample that differs from the one before resets the counter, which no legal threshold lets commit. -/
theorem CellState.not_commits_of_changed {d : Byte} {k : CellState} {r : Bool} (hd : d ≠ 0) (hchanged : r ≠ k.prev) :
    k.commits d r = false := by
  have hcount : (k.count r).toNat = 0 := by rw [CellState.count_toNat, if_neg hchanged]
  have hpos : 0 < d.toNat := Nat.pos_of_ne_zero (BitVec.toNat_ne.mp hd)
  rw [← Bool.not_eq_true, CellState.commits_iff, hcount]
  exact fun ⟨hle, _⟩ => absurd hle (Nat.not_le.mpr hpos)

theorem CellState.advance_of_changed {d : Byte} {k : CellState} {r : Bool} (hd : d ≠ 0) (hchanged : r ≠ k.prev) :
    k.advance d r = { prev := r, cnt := 0, stable := k.stable } := by
  have hcount : k.count r = 0 := BitVec.eq_of_toNat_eq (by rw [CellState.count_toNat, if_neg hchanged]; rfl)
  simp only [CellState.advance, CellState.not_commits_of_changed hd hchanged, hcount, Bool.false_eq_true, if_false]

/-- Before every pass the sample to come differs from `PREV`, `STABLE` is the first one, and from the first pass on
`CNT` is 0. -/
theorem beforePass_changing {grids : Nat → Grid Bool} {s : State} {y x : Fin 12} (hd : s.cfg.debThresh ≠ 0)
    (hfirst : (grids 0).cell y x ≠ s.prev.cell y x)
    (hchanges : ∀ n, (grids (n + 1)).cell y x ≠ (grids n).cell y x) (n : Nat) :
    (grids n).cell y x ≠ ((beforePass grids s n).cellState y x).prev ∧
    ((beforePass grids s n).cellState y x).stable = s.stable.cell y x ∧
    (0 < n → ((beforePass grids s n).cellState y x).cnt = 0) := by
  induction n with
  | zero => exact ⟨hfirst, rfl, fun h => absurd h (lt_irrefl 0)⟩
  | succ n ih =>
    obtain ⟨hchanged, hstable, -⟩ := ih
    rw [beforePass_cellState_succ, CellState.advance_of_changed hd hchanged]
    exact ⟨hchanges n, hstable, fun _ => rfl⟩

/-! ### A held sample -/

/-- The cell before pass `n` of a sequence with the sample `v` throughout, `v` being neither its first `PREV` nor its
first `STABLE`, which is `old`: the first pass records `v`, each later one counts, and `STABLE` is `v` after pass number
`threshold`. -/
structure HeldCell (threshold : Byte) (v old : Bool) (n : Nat) (k : CellState) : Prop where
  recorded : v = k.prev ↔ 0 < n
  counted : 0 < n → k.cnt.toNat = min (n - 1) 255
  stable : k.stable = if n ≤ threshold.toNat then old else v

section
variable {d : Byte} {v old : Bool} {n : Nat} {k : CellState}

/-- Pass `n`, counted from 0, leaves the counter at `n` until it saturates. -/
theorem HeldCell.count_toNat (h : HeldCell d v old n k) : (k.count v).toNat = min n 255 := by
  rw [CellState.count_toNat]
  by_cases hn : 0 < n
  · rw [if_pos (h.recorded.mpr hn), h.counted hn]
    omega
  · rw [if_neg (mt h.recorded.mp hn)]
    omega

/-- The counter reaches the threshold at pass number `threshold`, and `STABLE` still differs at that pass alone. -/
theorem HeldCell.commits_iff (h : HeldCell d v old n k) (hold : v ≠ old) : k.commits d v = true ↔ n = d.toNat := by
  have hdiffers : k.stable ≠ v ↔ n ≤ d.toNat := by
    rw [h.stable]
    split <;> simp_all [Ne.symm hold]
  have hd : d.toNat < 2 ^ 8 := d.isLt
  rw [CellState.commits_iff, h.count_toNat, hdiffers]
  omega

theorem HeldCell.advance (h : HeldCell d v old n k) (hold : v ≠ old) : HeldCell d v old (n + 1) (k.advance d v) where
  recorded := by simp
  counted _ := h.count_toNat
  stable := by
    rw [CellState.advance_stable, h.stable]
    simp only [h.commits_iff hold, Nat.succ_le_iff]
    rcases lt_trichotomy n d.toNat with hlt | heq | hgt
    · rw [if_neg hlt.ne, if_pos hlt.le, if_pos hlt]
    · rw [if_pos heq, if_neg heq.not_lt]
    · rw [if_neg hgt.ne', if_neg hgt.not_ge, if_neg hgt.not_gt]

end

theorem beforePass_held {grids : Nat → Grid Bool} {s : State} {y x : Fin 12} {v : Bool} (hprev : v ≠ s.prev.cell y x)
    (hstable : v ≠ s.stable.cell y x) (hheld : ∀ n, (grids n).cell y x = v) (n : Nat) :
    HeldCell s.cfg.debThresh v (s.stable.cell y x) n ((beforePass grids s n).cellState y x) := by
  induction n with
  | zero =>
    exact ⟨iff_of_false hprev (lt_irrefl 0), fun h => absurd h (lt_irrefl 0), (if_pos (Nat.zero_le _)).symm⟩
  | succ n ih =>
    rw [beforePass_cellState_succ, hheld n]
    exact ih.advance hstable

end Sys2Proof.Machine

open Sys2Proof Sys2Proof.Machine

/-- Settles O37: at every pass the sample differs from the recorded one, so the counter never reaches the threshold. -/
theorem changingSampleNeverCommits : Obligations.ChangingSampleNeverCommits := by
  intro s grids y x hd hfirst hchanges n t
  obtain ⟨hchanged, hstable, hcnt⟩ := beforePass_changing hd hfirst hchanges n
  have hevents := beforePass_passEvents_isOf grids s n y x
  rw [CellState.not_commits_of_changed hd hchanged, if_neg Bool.false_ne_true] at hevents
  exact ⟨hstable, hcnt, fun e he => by simpa using List.filter_eq_nil_iff.mp hevents e he⟩

/-- Settles O38: the invariant `HeldCell` gives the counter and `STABLE` before every pass, and with them the one pass
that commits. -/
theorem heldSampleCommitsOnce : Obligations.HeldSampleCommitsOnce := by
  intro s grids y x v _ hprev hstable hheld n t e
  have hcell := beforePass_held hprev hstable hheld n
  refine ⟨hcell.counted, hcell.stable, ?_⟩
  rw [beforePass_passEvents_isOf, hheld n]
  simp only [hcell.commits_iff hstable]
  rfl
end

section
/-! PROOFS. Which words decode: those that match a row of the opcode table (30_encoding.md R94, R104). A row is given by
the values it requires of some fields of the word, and the decoder tests the same fields. -/

namespace Sys2Proof

/-! ### Fields of a word -/

/-- A requirement on a word: the `width` bits from bit `lo` up have this value. -/
structure WordField where
  lo : Nat
  width : Nat
  value : Nat

def WordField.Holds (f : WordField) (w : Word) : Prop := w.extractLsb' f.lo f.width = BitVec.ofNat f.width f.value

/-- The bits of a field. -/
def WordField.mask (f : WordField) : Word := atBit (BitVec.allOnes f.width) f.lo

/-- The value of a field, at the field's bits. -/
def WordField.pattern (f : WordField) : Word := atBit (BitVec.ofNat f.width f.value) f.lo

/-- The bits of all fields of a list. -/
def fieldsMask (fs : List WordField) : Word := fs.foldr (fun f m => f.mask ||| m) 0

theorem getLsbD_atBit {n : Nat} (v : BitVec n) (lo i : Nat) :
    (atBit v lo).getLsbD i = (decide (i < 32) && decide (lo ≤ i) && v.getLsbD (i - lo)) := by
  simp only [atBit, BitVec.getLsbD_shiftLeft, BitVec.getLsbD_setWidth]
  by_cases hlo : lo ≤ i
  · by_cases hi : i < 32
    · simp [hlo, hi, Nat.not_lt.mpr hlo, show i - lo < 32 by omega]
    · simp [hi]
  · simp [hlo, Nat.lt_of_not_le hlo]

theorem WordField.holds_iff {f : WordField} (hf : f.lo + f.width ≤ 32) (w : Word) :
    f.Holds w ↔ w &&& f.mask = f.pattern := by
  simp only [WordField.Holds, WordField.mask, WordField.pattern, BitVec.eq_of_getLsbD_eq_iff,
    BitVec.getLsbD_extractLsb', BitVec.getLsbD_and, getLsbD_atBit, BitVec.getLsbD_allOnes]
  constructor
  · intro hfield i hi
    by_cases hin : f.lo ≤ i ∧ i - f.lo < f.width
    · have hbit := hfield (i - f.lo) hin.2
      rw [Nat.add_sub_cancel' hin.1] at hbit
      simpa [hi, hin] using hbit
    · by_cases hlo : f.lo ≤ i
      · have hout : f.width ≤ i - f.lo := by omega
        simp [Nat.not_lt.mpr hout, BitVec.getLsbD_of_ge _ _ hout]
      · simp [hlo]
  · intro hmask i hi
    have hbit := hmask (f.lo + i) (by omega)
    simpa [hi, show f.lo + i < 32 by omega] using hbit

/-- Words agree on the bits of two masks together exactly if they agree on the bits of each. -/
theorem and_or_eq_iff (w p a b : Word) :
    w &&& (a ||| b) = p &&& (a ||| b) ↔ w &&& a = p &&& a ∧ w &&& b = p &&& b := by
  simp only [BitVec.eq_of_getLsbD_eq_iff, BitVec.getLsbD_and, BitVec.getLsbD_or]
  grind

theorem and_fieldsMask_eq_iff (w p : Word) (fs : List WordField) :
    w &&& fieldsMask fs = p &&& fieldsMask fs ↔ ∀ f ∈ fs, w &&& f.mask = p &&& f.mask := by
  induction fs with
  | nil => simp [fieldsMask]
  | cons f fs ih =>
    rw [List.forall_mem_cons, ← ih]
    exact and_or_eq_iff w p f.mask (fieldsMask fs)

/-! ### The rows of the opcode table -/

/-- What the formats of 30_encoding.md R92 to R101 require of a command's word, from `OP` down: opcode fields and bits
that must be 0. -/
def Mnemonic.fields : Mnemonic → List WordField
  | .nop => [⟨28, 4, 0x0⟩, ⟨0, 28, 0⟩]
  | .clear => [⟨28, 4, 0x1⟩, ⟨0, 28, 0⟩]
  | .setPixel => [⟨28, 4, 0x2⟩, ⟨11, 17, 0⟩]
  | .getPixel => [⟨28, 4, 0x3⟩, ⟨8, 20, 0⟩]
  | .fbRead => [⟨28, 4, 0x4⟩, ⟨8, 20, 0⟩]
  | .fbWrite => [⟨28, 4, 0x5⟩, ⟨16, 12, 0⟩]
  | .select => [⟨28, 4, 0x6⟩, ⟨4, 24, 0⟩]
  | .setAddr => [⟨28, 4, 0x7⟩, ⟨3, 25, 0⟩]
  | .sendRow => [⟨28, 4, 0x8⟩, ⟨5, 23, 0⟩, ⟨4, 1, 0⟩]
  | .sendBlank => [⟨28, 4, 0x8⟩, ⟨5, 23, 0⟩, ⟨4, 1, 1⟩, ⟨0, 4, 0⟩]
  | .sample => [⟨28, 4, 0x9⟩, ⟨0, 28, 0⟩]
  | .probe => [⟨28, 4, 0xA⟩, ⟨8, 20, 0⟩]
  | .draw => [⟨28, 4, 0xB⟩, ⟨0, 28, 0⟩]
  | .scan => [⟨28, 4, 0xC⟩, ⟨0, 28, 0⟩]
  | .readGrid => [⟨28, 4, 0xD⟩, ⟨9, 19, 0⟩, ⟨4, 4, 0⟩]
  | .popEvent => [⟨28, 4, 0xE⟩, ⟨0, 28, 0⟩]
  | .cfgRead => [⟨28, 4, 0xF⟩, ⟨24, 4, 0⟩, ⟨8, 16, 0⟩]
  | .cfgWrite => [⟨28, 4, 0xF⟩, ⟨24, 4, 1⟩]
  | .clrStatus => [⟨28, 4, 0xF⟩, ⟨24, 4, 2⟩, ⟨0, 24, 0⟩]
  | .softReset => [⟨28, 4, 0xF⟩, ⟨24, 4, 3⟩, ⟨0, 24, 0⟩]

/-- The mask and the pattern of each row say what its fields say. -/
theorem opcodeRows_fields :
    ∀ r ∈ opcodeRows, r.mask = fieldsMask r.mnemonic.fields ∧ r.pattern &&& r.mask = r.pattern ∧
      ∀ f ∈ r.mnemonic.fields, f.lo + f.width ≤ 32 ∧ r.pattern &&& f.mask = f.pattern := by
  decide

theorem matchesWord_iff_fields {r : OpcodeRow} (hr : r ∈ opcodeRows) (w : Word) :
    r.matchesWord w = true ↔ ∀ f ∈ r.mnemonic.fields, f.Holds w := by
  obtain ⟨hmask, hpattern, hfields⟩ := opcodeRows_fields r hr
  calc r.matchesWord w = true
      ↔ w &&& r.mask = r.pattern &&& r.mask := by rw [hpattern]; exact beq_iff_eq
    _ ↔ ∀ f ∈ r.mnemonic.fields, w &&& f.mask = r.pattern &&& f.mask := by rw [hmask, and_fieldsMask_eq_iff]
    _ ↔ ∀ f ∈ r.mnemonic.fields, f.Holds w := forall₂_congr fun f hf => by
      rw [WordField.holds_iff (hfields f hf).1, (hfields f hf).2]

/-- Each mnemonic has a row. -/
theorem exists_row_matchesWord_iff (w : Word) :
    (∃ r ∈ opcodeRows, r.matchesWord w = true) ↔ ∃ m : Mnemonic, ∀ f ∈ m.fields, f.Holds w := by
  constructor
  · rintro ⟨r, hr, hmatch⟩
    exact ⟨r.mnemonic, (matchesWord_iff_fields hr w).mp hmatch⟩
  · rintro ⟨m, hm⟩
    obtain ⟨r, hr, rfl⟩ : ∃ r ∈ opcodeRows, r.mnemonic = m := by cases m <;> simp [opcodeRows]
    exact ⟨r, hr, (matchesWord_iff_fields hr w).mpr hm⟩

/-! ### The decoder -/

/-- A field at bits 31:28 says what `OP` is. -/
theorem holds_op_iff {w : Word} {v : Nat} (hv : v < 16) : WordField.Holds ⟨28, 4, v⟩ w ↔ (opField w).toNat = v := by
  show opField w = BitVec.ofNat 4 v ↔ _
  rw [← BitVec.toNat_inj, BitVec.toNat_ofNat, Nat.mod_eq_of_lt hv]

/-- A field at bits 27:24 says what `SUB` is. -/
theorem holds_sub_iff {w : Word} {v : Nat} (hv : v < 16) : WordField.Holds ⟨24, 4, v⟩ w ↔ (subField w).toNat = v := by
  show subField w = BitVec.ofNat 4 v ↔ _
  rw [← BitVec.toNat_inj, BitVec.toNat_ofNat, Nat.mod_eq_of_lt hv]

theorem ifZero_ok_iff {w : Word} {lo n : Nat} {cause : Illegal} {i j : Instr} :
    ifZero w lo n cause i = .ok j ↔ WordField.Holds ⟨lo, n, 0⟩ w ∧ i = j := by
  unfold ifZero WordField.Holds
  split <;> simp_all

theorem decodeSR_ok_iff {w : Word} {i : Instr} :
    decodeSR w = .ok i ↔ WordField.Holds ⟨5, 23, 0⟩ w ∧
      (WordField.Holds ⟨4, 1, 1⟩ w ∧ WordField.Holds ⟨0, 4, 0⟩ w ∧ .sendBlank = i ∨
        WordField.Holds ⟨4, 1, 0⟩ w ∧ .sendRow (w.extractLsb' 0 4) = i) := by
  have hblank : w.extractLsb' 4 1 ≠ 1 ↔ w.extractLsb' 4 1 = 0 := by
    generalize w.extractLsb' 4 1 = b
    revert b
    decide
  unfold decodeSR
  split
  · split
    · simp_all [ifZero_ok_iff, WordField.Holds]
    · simp_all [WordField.Holds]
  · simp_all [WordField.Holds]

theorem decodeGR_ok_iff {w : Word} {i : Instr} :
    decodeGR w = .ok i ↔ WordField.Holds ⟨9, 19, 0⟩ w ∧ WordField.Holds ⟨4, 4, 0⟩ w ∧
      .readGrid (w.extractLsb' 8 1) (w.extractLsb' 0 4) = i := by
  unfold decodeGR
  split <;> simp_all [ifZero_ok_iff, WordField.Holds]

theorem decodeSYS_ok_iff {w : Word} {i : Instr} :
    decodeSYS w = .ok i ↔
      (subField w).toNat = 0 ∧ WordField.Holds ⟨8, 16, 0⟩ w ∧ .cfgRead (w.extractLsb' 0 8) = i ∨
      (subField w).toNat = 1 ∧ .cfgWrite (w.extractLsb' 0 8) (w.extractLsb' 8 16) = i ∨
      (subField w).toNat = 2 ∧ WordField.Holds ⟨0, 24, 0⟩ w ∧ .clrStatus = i ∨
      (subField w).toNat = 3 ∧ WordField.Holds ⟨0, 24, 0⟩ w ∧ .softReset = i := by
  unfold decodeSYS
  split <;> simp_all [ifZero_ok_iff]

/-- A word that decodes has the fields of the command it decodes to. -/
theorem fields_of_decode {w : Word} {i : Instr} (h : decode w = .ok i) : ∀ f ∈ i.mnemonic.fields, f.Holds w := by
  unfold decode at h
  split at h
  case h_9 hop =>
    rcases decodeSR_ok_iff.mp h with ⟨hzero, ⟨hblank, hrow, rfl⟩ | ⟨hblank, rfl⟩⟩ <;>
      simp [Instr.mnemonic, Mnemonic.fields, holds_op_iff, *]
  case h_14 hop =>
    obtain ⟨hhigh, hlow, rfl⟩ := decodeGR_ok_iff.mp h
    simp [Instr.mnemonic, Mnemonic.fields, holds_op_iff, hop, hhigh, hlow]
  case h_16 =>
    have hop : (opField w).toNat = 15 := by
      have hlt : (opField w).toNat < 16 := (opField w).isLt
      simp only [imp_false] at *
      omega
    rcases decodeSYS_ok_iff.mp h with ⟨hsub, hzero, rfl⟩ | ⟨hsub, rfl⟩ | ⟨hsub, hzero, rfl⟩ | ⟨hsub, hzero, rfl⟩ <;>
      simp [Instr.mnemonic, Mnemonic.fields, holds_op_iff, holds_sub_iff, *]
  all_goals
    rename_i hop
    obtain ⟨hzero, rfl⟩ := ifZero_ok_iff.mp h
    simp [Instr.mnemonic, Mnemonic.fields, holds_op_iff, hop, hzero]

/-- A word with the fields of some command decodes. -/
theorem decode_of_fields {w : Word} {m : Mnemonic} (h : ∀ f ∈ m.fields, f.Holds w) : ∃ i, decode w = .ok i := by
  cases m <;>
    simp_all [Mnemonic.fields, holds_op_iff, holds_sub_iff, decode, decodeN, ifZero_ok_iff, decodeSR_ok_iff,
      decodeGR_ok_iff, decodeSYS_ok_iff]

/-- The legal words are those of the opcode table's rows (30_encoding.md R94). -/
theorem decode_ok_iff_matchesWord (w : Word) :
    (∃ i, decode w = .ok i) ↔ ∃ r ∈ opcodeRows, r.matchesWord w = true := by
  rw [exists_row_matchesWord_iff]
  constructor
  · rintro ⟨i, hi⟩
    exact ⟨i.mnemonic, fields_of_decode hi⟩
  · rintro ⟨m, hm⟩
    exact decode_of_fields hm

/-- The illegal words are those that match no row (30_encoding.md R104). -/
theorem decode_error_iff_matchesWord (w : Word) :
    (∃ cause, decode w = .error cause) ↔ ∀ r ∈ opcodeRows, r.matchesWord w = false := by
  have hlegal := decode_ok_iff_matchesWord w
  cases hd : decode w with
  | ok i =>
    obtain ⟨r, hr, hmatch⟩ := hlegal.mp ⟨i, hd⟩
    exact iff_of_false nofun fun hnone => Bool.false_ne_true ((hnone r hr).symm.trans hmatch)
  | error cause =>
    refine iff_of_true ⟨cause, rfl⟩ fun r hr => Bool.eq_false_iff.mpr fun hmatch => ?_
    obtain ⟨i, hi⟩ := hlegal.mpr ⟨r, hr, hmatch⟩
    simp [hd] at hi

end Sys2Proof
end

section
/-! PROOFS. The errors of 60_exceptions.md R241 to R246: the first cause that applies to a command is the code it
reports, and a command that reports one does nothing else. -/

namespace Sys2Proof.Machine

/-! ### The first cause -/

/-- The first of BUSY, FAULT and RANGE that applies to a decoded command, else OK (60_exceptions.md R246). -/
def State.firstError (s : State) (i : Instr) : ErrCode :=
  if i.cmdClass ≠ .always ∧ s.busy = true then .busy
  else if i.cmdClass = .bus ∧ s.fault = true then .fault
  else if i.inRange = false then .range
  else .ok

section
variable {s : State} {i : Instr}

theorem firstError_eq_busy (hclass : i.cmdClass ≠ .always) (hbusy : s.busy = true) : s.firstError i = .busy :=
  if_pos ⟨hclass, hbusy⟩

theorem firstError_eq_fault (hclass : i.cmdClass = .bus) (hbusy : s.busy = false) (hfault : s.fault = true) :
    s.firstError i = .fault := by
  simp [State.firstError, hclass, hbusy, hfault]

/-- When neither BUSY nor FAULT refuses the command's class, its operands decide. -/
theorem firstError_eq_of_not_refused (hbusy : i.cmdClass ≠ .always → s.busy = false)
    (hfault : i.cmdClass = .bus → s.fault = false) :
    s.firstError i = if i.inRange = false then .range else .ok := by
  have hnotBusy : ¬(i.cmdClass ≠ .always ∧ s.busy = true) := fun h => Bool.false_ne_true ((hbusy h.1).symm.trans h.2)
  have hnotFault : ¬(i.cmdClass = .bus ∧ s.fault = true) := fun h => Bool.false_ne_true ((hfault h.1).symm.trans h.2)
  rw [State.firstError, if_neg hnotBusy, if_neg hnotFault]

theorem firstError_eq_range (hbusy : i.cmdClass ≠ .always → s.busy = false)
    (hfault : i.cmdClass = .bus → s.fault = false) (hrange : i.inRange = false) : s.firstError i = .range := by
  rw [firstError_eq_of_not_refused hbusy hfault, if_pos hrange]

theorem firstError_eq_ok (hbusy : i.cmdClass ≠ .always → s.busy = false)
    (hfault : i.cmdClass = .bus → s.fault = false) (hrange : i.inRange = true) : s.firstError i = .ok := by
  rw [firstError_eq_of_not_refused hbusy hfault, hrange]
  rfl

theorem firstError_ne_range (hrange : i.inRange = true) : s.firstError i ≠ .range := by
  unfold State.firstError
  split_ifs <;> simp_all

theorem firstError_ne_illegal : s.firstError i ≠ .illegal := by
  unfold State.firstError
  split_ifs <;> nofun

end

/-- Acceptance (30_encoding.md R94): a command has its effect unless some cause applies; then that cause is all it
leaves. -/
theorem command_eq_firstError (s : State) (i : Instr) (effect : State → State) :
    s.command i effect =
      if s.firstError i = .ok then effect (s.setErr .ok) else s.setErr (s.firstError i) := by
  unfold State.command State.accept State.firstError
  split_ifs <;> simp_all

/-! ### The effect of an accepted command -/

theorem writePixel_err (s : State) (x y : Nat) (c : Colour) : (s.writePixel x y c).err = s.err := rfl

theorem popEvent_err (s : State) : s.popEvent.err = s.err := by
  unfold State.popEvent
  split <;> rfl

theorem foldl_observeSample_err (cs : List (Fin 6)) (s : State) : (cs.foldl State.observeSample s).err = s.err := by
  induction cs generalizing s with
  | nil => rfl
  | cons c cs ih => exact ih (s.observeSample c)

theorem sampleLines_err (s : State) : s.sampleLines.err = s.err := foldl_observeSample_err _ s

theorem applyReset_err (s : State) : s.applyReset.err = .ok := by rw [applyReset_all]; rfl

/-- Every command is an acceptance, of an effect that reports no error of its own. -/
theorem exec_is_command (i : Instr) :
    ∃ effect : State → State, (∀ s, exec i s = .next (s.command i effect)) ∧
      ∀ s : State, s.err = .ok → (effect s).err = .ok := by
  cases i with
  | setPixel x y rgb =>
    refine ⟨_, fun _ => rfl, fun s hs => ?_⟩
    split
    · rwa [writePixel_err]
    · exact hs
  | getPixel x y =>
    refine ⟨_, fun _ => rfl, fun s hs => ?_⟩
    split <;> exact hs
  | sample => exact ⟨_, fun _ => rfl, fun s hs => (sampleLines_err s).trans hs⟩
  | popEvent => exact ⟨_, fun _ => rfl, fun s hs => (popEvent_err s).trans hs⟩
  | softReset => exact ⟨_, fun _ => rfl, fun s _ => applyReset_err s⟩
  | _ => exact ⟨_, fun _ => rfl, fun _ hs => hs⟩

/-! ### What a command reports -/

/-- A command to which a cause applies reports the first and changes nothing else (60_exceptions.md R245, R246). -/
theorem exec_of_firstError {s : State} {i : Instr} {e : ErrCode} (hfirst : s.firstError i = e) (he : e ≠ .ok) :
    exec i s = .next { s with err := e } := by
  obtain ⟨effect, hexec, -⟩ := exec_is_command i
  rw [hexec, command_eq_firstError, hfirst, if_neg he]
  rfl

/-- Every command reports its first cause, or OK (60_exceptions.md R246). -/
theorem exec_err {s t : State} {i : Instr} (h : exec i s = .next t) : t.err = s.firstError i := by
  by_cases hfirst : s.firstError i = .ok
  · obtain ⟨effect, hexec, hok⟩ := exec_is_command i
    rw [hexec, command_eq_firstError, if_pos hfirst] at h
    cases h
    rw [hfirst]
    exact hok _ rfl
  · rw [exec_of_firstError rfl hfirst] at h
    cases h
    rfl

/-! ### A write of CMD -/

section
variable {s : State} {w : Word}

theorem commandWrite_of_decode {i : Instr} (hop : s.operating = true) (hd : decode w = .ok i) :
    commandWrite w s = exec i s := by
  simp only [commandWrite, hop, hd, if_true]

theorem commandWrite_of_illegal {cause : Illegal} (hop : s.operating = true) (hd : decode w = .error cause) :
    commandWrite w s = .next { s with err := .illegal } := by
  simp only [commandWrite, hop, hd, if_true]
  rfl

end

/-- SEND_ROW 9 is out of range (60_exceptions.md R246). -/
theorem commandWrite_sendRow_nine {s : State} {e : ErrCode} (hop : s.operating = true)
    (hfirst : s.firstError (.sendRow 9) = e) (he : e ≠ .ok) :
    commandWrite 0x80000009 s = .next { s with err := e } := by
  have hd : decode 0x80000009 = .ok (.sendRow 9) := by decide
  rw [commandWrite_of_decode hop hd]
  exact exec_of_firstError hfirst he

end Sys2Proof.Machine

open Sys2Proof Sys2Proof.Machine

/-- Settles O7: the words that do not decode are those that match no row, and a command that decodes has no cause
ILLEGAL to report. -/
theorem illegalWordsReportIllegal : Obligations.IllegalWordsReportIllegal := by
  intro s w hop
  rw [← decode_error_iff_matchesWord]
  cases hd : decode w with
  | error cause =>
    exact ⟨_, commandWrite_of_illegal hop hd, iff_of_true rfl ⟨cause, rfl⟩, fun _ => rfl⟩
  | ok i =>
    obtain ⟨t, ht⟩ := exec_next i s
    have herr : t.err ≠ .illegal := exec_err ht ▸ firstError_ne_illegal
    exact ⟨t, (commandWrite_of_decode hop hd).trans ht, iff_of_false herr nofun, nofun⟩

/-- Settles O8: `firstError` is the order of R246, and every command that decodes reports it. -/
theorem firstErrorIsReported : Obligations.FirstErrorIsReported := by
  refine ⟨fun s w hop => ?_, fun s hop => ⟨fun hbusy => ?_, fun hbusy hfault => ?_, fun hbusy hfault => ?_⟩⟩
  · cases hd : decode w with
    | error cause => exact ⟨_, commandWrite_of_illegal hop hd, rfl⟩
    | ok i =>
      obtain ⟨t, ht⟩ := exec_next i s
      exact ⟨t, (commandWrite_of_decode hop hd).trans ht, exec_err ht⟩
  · exact commandWrite_sendRow_nine hop (firstError_eq_busy nofun hbusy) nofun
  · exact commandWrite_sendRow_nine hop (firstError_eq_fault rfl hbusy hfault) nofun
  · exact commandWrite_sendRow_nine hop (firstError_eq_range (fun _ => hbusy) (fun _ => hfault) rfl) nofun

/-- Settles O9: a write of CMD is an illegal word or a command, and either leaves no more than the code it reports. -/
theorem rejectedCommandsArePrecise : Obligations.RejectedCommandsArePrecise := by
  intro s t w hop ht
  cases hd : decode w with
  | error cause =>
    rw [commandWrite_of_illegal hop hd] at ht
    cases ht
    exact ⟨fun _ => rfl, nofun⟩
  | ok i =>
    rw [commandWrite_of_decode hop hd] at ht
    have herr : t.err = s.firstError i := exec_err ht
    constructor
    · intro hrejected
      rw [exec_of_firstError herr.symm hrejected] at ht
      exact (Host.Outcome.next.inj ht).symm
    · rintro _ ⟨⟩ hrange hbusy hfault
      rw [herr, firstError_eq_ok hbusy hfault hrange]

/-- Settles O10: none of the eleven commands is of class A. -/
theorem busyRefusesBusAndQuietCommands : Obligations.BusyRefusesBusAndQuietCommands := by
  intro s hbusy
  have refused : ∀ i : Instr, i.cmdClass ≠ .always → exec i s = .next { s with err := .busy } :=
    fun i hclass => exec_of_firstError (firstError_eq_busy hclass hbusy) nofun
  exact ⟨fun _ => refused _ nofun, fun _ => refused _ nofun, fun _ => refused _ nofun, refused _ nofun,
    refused _ nofun, fun _ _ => refused _ nofun, refused _ nofun, refused _ nofun, fun _ _ => refused _ nofun,
    fun _ _ => refused _ nofun, refused _ nofun⟩

/-- Settles O11: the eight commands are of class B. -/
theorem faultRefusesBusCommands : Obligations.FaultRefusesBusCommands := by
  intro s hbusy hfault
  have refused : ∀ i : Instr, i.cmdClass = .bus → exec i s = .next { s with err := .fault } :=
    fun i hclass => exec_of_firstError (firstError_eq_fault hclass hbusy hfault) nofun
  exact ⟨fun _ => refused _ rfl, fun _ => refused _ rfl, fun _ => refused _ rfl, refused _ rfl, refused _ rfl,
    fun _ _ => refused _ rfl, refused _ rfl, refused _ rfl⟩

/-- Settles O12: outside its bound a command is out of range, and SET_PIXEL, GET_PIXEL and SELECT never are. -/
theorem outOfRangeOperandsReportRange : Obligations.OutOfRangeOperandsReportRange := by
  have refused : ∀ {s : State} (i : Instr), (i.cmdClass ≠ .always → s.busy = false) →
      (i.cmdClass = .bus → s.fault = false) → i.inRange = false → exec i s = .next { s with err := .range } :=
    fun i hbusy hfault hrange => exec_of_firstError (firstError_eq_range hbusy hfault hrange) nofun
  refine ⟨fun s row byte hbad => ?_, fun s row hbusy hfault hbad => ?_, fun s x y hbusy hfault hbad => ?_,
    fun s b y hbusy hbad => ?_, fun s k hbad => ?_, fun s k v hbusy hbad => ?_, fun s t x y c hexec => ?_⟩
  · have hrange : decide (row.toNat ≤ 5 ∧ byte.toNat ≤ 8) = false := decide_eq_false (by omega)
    exact ⟨refused _ (absurd rfl) nofun hrange, fun v => refused _ (absurd rfl) nofun hrange⟩
  · exact refused _ (fun _ => hbusy) (fun _ => hfault) (decide_eq_false (by omega))
  · exact refused _ (fun _ => hbusy) (fun _ => hfault) (decide_eq_false (by omega))
  · exact refused _ (fun _ => hbusy) nofun (decide_eq_false (by omega))
  · exact refused _ (absurd rfl) nofun (decide_eq_false (by omega))
  · exact refused _ (fun _ => hbusy) nofun (decide_eq_false (by omega))
  · rcases hexec with h | h | h <;> exact exec_err h ▸ firstError_ne_range rfl
end

section
/-! PROOFS. Reset (70_reset_and_hazards.md R270 to R273): SOFT_RESET and `RST_n` both reach a state that `resetCore`
leaves as it is, so every state of CORE is read off `resetCore`. -/

namespace Sys2Proof.Machine

/-! ### The words of the host registers after a reset -/

@[simp] theorem statusWord_resetCore (s : State) : s.resetCore.statusWord = 0 := by
  simp [State.statusWord, State.evtIrq, State.evqNe, State.evqCount, CfgRegs.reset, Pins.reset, ErrCode.code]

@[simp] theorem senseWord_resetCore (s : State) : s.resetCore.senseWord = 0 := by
  simp [State.senseWord]

/-! ### The two ways into a reset -/

/-- `RST_n` keeps what R273 says it keeps; of the board only the shift stage can change. -/
theorem pinReset_keeps (s : State) :
    s.pinReset.params = s.params ∧ s.pinReset.board.latched = s.board.latched := by
  unfold State.pinReset
  cases s.midTransfer <;> exact ⟨rfl, rfl⟩

/-- Setting `RST_n` to 0 is a reset by the pin, at the levels set with it. -/
theorem environmentTurn_of_rstN_low (s : State) {levels : Inputs} (hlow : levels.rstN = false) :
    s.environmentTurn levels = { s with inputs := levels }.pinReset := by
  simp only [State.environmentTurn, hlow, Bool.false_eq_true, if_false]

/-- SOFT_RESET is accepted unless a long command runs, and its effect is the reset (45_system.md R224). -/
theorem exec_softReset {s : State} (hbusy : s.busy = false) :
    exec .softReset s = .next (s.setErr .ok).applyReset :=
  congrArg Host.Outcome.next
    (command_accepted (i := .softReset) (fun s => s.applyReset) (fun _ => hbusy) nofun rfl)

/-- A reset of either kind ends in a state whose states of CORE are all at their reset values, with the parameters and
`LATCHED` it began with (70_reset_and_hazards.md R271, R273, R275). -/
theorem reset_reaches_resetCore {s t : State}
    (h : (s.busy = false ∧ exec .softReset s = .next t) ∨
      ∃ levels, levels.rstN = false ∧ t = s.environmentTurn levels) :
    t.resetCore = t ∧ t.params = s.params ∧ t.board.latched = s.board.latched := by
  rcases h with ⟨hbusy, hexec⟩ | ⟨levels, hlow, rfl⟩
  · rw [exec_softReset hbusy] at hexec
    cases hexec
    obtain ⟨hparams, -, hboard⟩ := applyReset_keeps (s.setErr .ok)
    exact ⟨resetCore_applyReset _, hparams, congrArg Board.latched hboard⟩
  · rw [environmentTurn_of_rstN_low s hlow]
    exact ⟨(pinReset_holds _).2, pinReset_keeps _⟩

end Sys2Proof.Machine

open Sys2Proof Sys2Proof.Machine

/-- Settles O44: the state reached is its own `resetCore`, which holds the value R271 and R272 give in every field. -/
theorem resetGivesEveryStateItsResetValue : Obligations.ResetGivesEveryStateItsResetValue := by
  intro s t h
  obtain ⟨hreset, hparams, hlatched⟩ := reset_reaches_resetCore h
  rw [← hparams, ← hlatched, ← hreset]
  have hmemory : ∀ a, memRead t.params.offByte [] a = t.params.offByte := fun _ => rfl
  have htxbuf : ∀ b : Fin 9, t.resetCore.txbuf[b.val] = t.params.offByte := fun _ => Vector.getElem_replicate _
  exact ⟨rfl, rfl, rfl, rfl, statusWord_resetCore t, senseWord_resetCore t, rfl, fun a => ⟨hmemory a, hmemory a⟩,
    htxbuf, rfl, fun y x => ⟨cell_fill false y x, cell_fill false y x, cell_fill false y x, cell_fill 0 y x⟩,
    rfl, rfl, rfl, rfl, rfl, rfl, rfl, rfl, rfl⟩
end

section
/-! PROOFS. Decoding and encoding undo each other (30_encoding.md R90 to R104): a word decodes to a command exactly if it
has the fields the command requires, and these fields take up the whole word. -/

namespace Sys2Proof

/-! ### The fields of a command -/

/-- The field an operand takes up from bit `lo` on. -/
def operandField {n : Nat} (lo : Nat) (v : BitVec n) : WordField := ⟨lo, n, v.toNat⟩

/-- What the operands of a command require of its word (30_encoding.md R95 to R102). -/
def Instr.operandFields : Instr → List WordField
  | .setPixel x y rgb => [operandField 0 x, operandField 4 y, operandField 8 rgb]
  | .getPixel x y => [operandField 0 x, operandField 4 y]
  | .fbRead row byte => [operandField 4 row, operandField 0 byte]
  | .fbWrite row byte val => [operandField 4 row, operandField 0 byte, operandField 8 val]
  | .select ch => [operandField 0 ch]
  | .setAddr addr => [operandField 0 addr]
  | .sendRow row => [operandField 0 row]
  | .probe x y => [operandField 0 x, operandField 4 y]
  | .readGrid bank y => [operandField 8 bank, operandField 0 y]
  | .cfgRead idx => [operandField 0 idx]
  | .cfgWrite idx value => [operandField 0 idx, operandField 8 value]
  | _ => []

/-- All that a command requires of its word. -/
def Instr.fields (i : Instr) : List WordField := i.mnemonic.fields ++ i.operandFields

theorem holds_operand_iff {lo n : Nat} {v : BitVec n} {w : Word} :
    (operandField lo v).Holds w ↔ w.extractLsb' lo n = v := by
  simp only [operandField, WordField.Holds, BitVec.ofNat_toNat, BitVec.setWidth_eq]

/-- The decoder takes each operand from its field. -/
theorem operandFields_of_decode {w : Word} {i : Instr} (h : decode w = .ok i) : ∀ f ∈ i.operandFields, f.Holds w := by
  unfold decode at h
  split at h
  case h_9 =>
    rcases decodeSR_ok_iff.mp h with ⟨-, ⟨-, -, rfl⟩ | ⟨-, rfl⟩⟩ <;> simp [Instr.operandFields, holds_operand_iff]
  case h_14 =>
    obtain ⟨-, -, rfl⟩ := decodeGR_ok_iff.mp h
    simp [Instr.operandFields, holds_operand_iff]
  case h_16 =>
    rcases decodeSYS_ok_iff.mp h with ⟨-, -, rfl⟩ | ⟨-, rfl⟩ | ⟨-, -, rfl⟩ | ⟨-, -, rfl⟩ <;>
      simp [Instr.operandFields, holds_operand_iff]
  all_goals
    obtain ⟨-, rfl⟩ := ifZero_ok_iff.mp h
    simp [Instr.operandFields, holds_operand_iff]

/-- A word decodes to a command exactly if it has all the command's fields. -/
theorem decode_ok_iff_fields {w : Word} {i : Instr} : decode w = .ok i ↔ ∀ f ∈ i.fields, f.Holds w := by
  simp only [Instr.fields, List.forall_mem_append]
  constructor
  · exact fun h => ⟨fields_of_decode h, operandFields_of_decode h⟩
  · rintro ⟨hcode, hoperands⟩
    cases i <;>
      simp_all [Instr.mnemonic, Mnemonic.fields, Instr.operandFields, holds_op_iff, holds_sub_iff, holds_operand_iff,
        decode, decodeN, ifZero_ok_iff, decodeSR_ok_iff, decodeGR_ok_iff, decodeSYS_ok_iff]

/-- Whatever the operands, the fields of a command take up the whole word. -/
theorem fieldsMask_fields (i : Instr) : fieldsMask i.fields = BitVec.allOnes 32 := by
  cases i <;>
    simp [fieldsMask, Instr.fields, Instr.mnemonic, Mnemonic.fields, Instr.operandFields, operandField,
      WordField.mask, atBit]

theorem fields_fit (i : Instr) : ∀ f ∈ i.fields, f.lo + f.width ≤ 32 := by
  cases i <;> simp [Instr.fields, Instr.mnemonic, Mnemonic.fields, Instr.operandFields, operandField]

/-- No bit of a legal word is ignored: two words of one command are the same. -/
theorem decode_injective {w w' : Word} {i : Instr} (h : decode w = .ok i) (h' : decode w' = .ok i) : w = w' := by
  rw [decode_ok_iff_fields] at h h'
  have hagree : w &&& fieldsMask i.fields = w' &&& fieldsMask i.fields :=
    (and_fieldsMask_eq_iff w w' i.fields).mpr fun f hf => by
      rw [(WordField.holds_iff (fields_fit i f hf) w).mp (h f hf),
        (WordField.holds_iff (fields_fit i f hf) w').mp (h' f hf)]
  simpa only [fieldsMask_fields, BitVec.and_allOnes] using hagree

/-! ### The word of a command -/

/-- A field read where an operand was put gives the operand. -/
theorem extractLsb'_atBit_self {n : Nat} (v : BitVec n) {lo : Nat} (h : lo + n ≤ 32) :
    (atBit v lo).extractLsb' lo n = v := by
  refine BitVec.eq_of_getLsbD_eq fun i hi => ?_
  simp only [BitVec.getLsbD_extractLsb', getLsbD_atBit, hi, show lo + i < 32 by omega, Nat.le_add_right,
    Nat.add_sub_cancel_left, decide_true, Bool.true_and]

/-- A field read beside the place of an operand is 0. -/
theorem extractLsb'_atBit_disjoint {n : Nat} (v : BitVec n) {lo lo' n' : Nat} (h : lo' + n' ≤ lo ∨ lo + n ≤ lo') :
    (atBit v lo).extractLsb' lo' n' = 0 := by
  refine BitVec.eq_of_getLsbD_eq fun i hi => ?_
  have hout : lo ≤ lo' + i → n ≤ lo' + i - lo := by omega
  by_cases hlo : lo ≤ lo' + i
  · simp [getLsbD_atBit, BitVec.getLsbD_of_ge _ _ (hout hlo)]
  · simp [getLsbD_atBit, hlo]

/-- The word of every command matches the row of its mnemonic. -/
theorem tableRow : ∀ i : Instr, Laws.TableRow.Statement i
  | .nop => Laws.TableRow.nop
  | .clear => Laws.TableRow.clear
  | .setPixel x y rgb => Laws.TableRow.setPixel x y rgb
  | .getPixel x y => Laws.TableRow.getPixel x y
  | .fbRead row byte => Laws.TableRow.fbRead row byte
  | .fbWrite row byte val => Laws.TableRow.fbWrite row byte val
  | .select ch => Laws.TableRow.select ch
  | .setAddr addr => Laws.TableRow.setAddr addr
  | .sendRow row => Laws.TableRow.sendRow row
  | .sendBlank => Laws.TableRow.sendBlank
  | .sample => Laws.TableRow.sample
  | .probe x y => Laws.TableRow.probe x y
  | .draw => Laws.TableRow.draw
  | .scan => Laws.TableRow.scan
  | .readGrid bank y => Laws.TableRow.readGrid bank y
  | .popEvent => Laws.TableRow.popEvent
  | .cfgRead idx => Laws.TableRow.cfgRead idx
  | .cfgWrite idx value => Laws.TableRow.cfgWrite idx value
  | .clrStatus => Laws.TableRow.clrStatus
  | .softReset => Laws.TableRow.softReset

/-- The operands stand in the word where their fields are. -/
theorem operandFields_encode (i : Instr) : ∀ f ∈ i.operandFields, f.Holds (encode i) := by
  cases i <;>
    simp [Instr.operandFields, holds_operand_iff, encode, BitVec.extractLsb'_or, extractLsb'_atBit_self,
      extractLsb'_atBit_disjoint]

theorem decode_encode (i : Instr) : decode (encode i) = .ok i := by
  obtain ⟨r, hr, hmnemonic, hmatch⟩ := tableRow i
  rw [decode_ok_iff_fields, Instr.fields, List.forall_mem_append, ← hmnemonic]
  exact ⟨(matchesWord_iff_fields hr _).mp hmatch, operandFields_encode i⟩

/-- The words that decode to a command are its word alone. -/
theorem decode_ok_iff_encode {w : Word} {i : Instr} : decode w = .ok i ↔ w = encode i :=
  ⟨fun h => decode_injective h (decode_encode i), fun h => h ▸ decode_encode i⟩

/-! ### The opcode table -/

/-- The fields of a mnemonic are those of one of its commands, whatever the operand bits. -/
theorem exists_decode_of_mnemonic_fields {w : Word} {m : Mnemonic} (h : ∀ f ∈ m.fields, f.Holds w) :
    ∃ i, decode w = .ok i ∧ i.mnemonic = m := by
  cases m <;>
    simp_all [Mnemonic.fields, holds_op_iff, holds_sub_iff, decode, decodeN, ifZero_ok_iff, decodeSR_ok_iff,
      decodeGR_ok_iff, decodeSYS_ok_iff, Instr.mnemonic]

/-- Each mnemonic has one row only. -/
theorem opcodeRows_mnemonic_inj : ∀ r ∈ opcodeRows, ∀ r' ∈ opcodeRows, r.mnemonic = r'.mnemonic → r = r' := by
  decide

theorem mnemonic_of_matchesWord {w : Word} {i : Instr} (h : decode w = .ok i) {r : OpcodeRow} (hr : r ∈ opcodeRows)
    (hmatch : r.matchesWord w = true) : r.mnemonic = i.mnemonic := by
  obtain ⟨j, hj, hmnemonic⟩ := exists_decode_of_mnemonic_fields ((matchesWord_iff_fields hr w).mp hmatch)
  rw [← hmnemonic, Except.ok.inj (hj.symm.trans h)]

end Sys2Proof

open Sys2Proof

/-- Settles O1: the word of a command has the row's fields and its operands' fields, and these decode to the command. -/
theorem decodeAfterEncode : Obligations.DecodeAfterEncode := decode_encode

/-- Settles O2: the word and the command's own word decode alike, and decoding is injective on legal words. -/
theorem encodeAfterDecode : Obligations.EncodeAfterDecode := fun _ _ h => (decode_ok_iff_encode.mp h).symm

/-- Settles O3: a row that matches a word gives a command of its mnemonic, which the decoder's answer then is. -/
theorem decodeFollowsTheOpcodeTable : Obligations.DecodeFollowsTheOpcodeTable := by
  intro w
  refine ⟨decode_ok_iff_matchesWord w, fun i h r hr hmatch => mnemonic_of_matchesWord h hr hmatch,
    fun r hr r' hr' hmatch hmatch' => ?_⟩
  obtain ⟨i, hi⟩ := (decode_ok_iff_matchesWord w).mpr ⟨r, hr, hmatch⟩
  exact opcodeRows_mnemonic_inj r hr r' hr'
    ((mnemonic_of_matchesWord hi hr hmatch).trans (mnemonic_of_matchesWord hi hr' hmatch').symm)

/-- Settles O4: the first eight words are the encoder's, and the other two break the rules of R99 and R101. -/
theorem writtenWordsDecode : Obligations.WrittenWordsDecode :=
  ⟨decode_encode .clear, decode_encode (.setPixel 5 3 4), decode_encode (.fbWrite 5 8 0xA5), decode_encode (.select 2),
    decode_encode .sendBlank, decode_encode (.probe 5 3), decode_encode (.readGrid 1 11),
    decode_encode (.cfgWrite 3 0x1234), by decide, by decide⟩
end

section
/-! PROOFS. Assembly terms (30_encoding.md R107): the terms whose operands fit are those of the commands. -/

namespace Sys2Proof

/-- A command as an assembly term: its mnemonic and its operands in the order of 30_encoding.md R107. -/
def Instr.term (i : Instr) : AsmTerm where
  mnemonic := i.mnemonic
  operands := match i with
    | .setPixel x y rgb => [x.toNat, y.toNat, rgb.toNat]
    | .getPixel x y => [x.toNat, y.toNat]
    | .fbRead row byte => [row.toNat, byte.toNat]
    | .fbWrite row byte val => [row.toNat, byte.toNat, val.toNat]
    | .select ch => [ch.toNat]
    | .setAddr addr => [addr.toNat]
    | .sendRow row => [row.toNat]
    | .probe x y => [x.toNat, y.toNat]
    | .readGrid bank y => [bank.toNat, y.toNat]
    | .cfgRead idx => [idx.toNat]
    | .cfgWrite idx value => [idx.toNat, value.toNat]
    | _ => []

/-- A term whose operands fit has one operand for each bound. -/
theorem length_of_operandsFit : ∀ {vs bs : List Nat}, operandsFit vs bs = true → vs.length = bs.length
  | [], [], _ => rfl
  | _ :: vs, _ :: bs, h => by
    simp only [operandsFit, Bool.and_eq_true] at h
    simp [length_of_operandsFit h.2]

theorem toInstr_of_not_wellFormed {t : AsmTerm} (h : t.wellFormed = false) : t.toInstr = none := by
  simp [AsmTerm.toInstr, h]

/-- A term that fits is the term of the command it stands for. -/
theorem toInstr_of_wellFormed {t : AsmTerm} (h : t.wellFormed = true) : ∃ i, t.toInstr = some i ∧ i.term = t := by
  have hlength := length_of_operandsFit h
  obtain ⟨m, vs⟩ := t
  cases m
  case nop | clear | sendBlank | sample | draw | scan | popEvent | clrStatus | softReset =>
    obtain rfl := List.eq_nil_of_length_eq_zero hlength
    exact ⟨_, rfl, rfl⟩
  case select | setAddr | sendRow | cfgRead =>
    obtain ⟨a, rfl⟩ := List.length_eq_one_iff.mp hlength
    simp only [AsmTerm.wellFormed, Mnemonic.operandBounds, operandsFit, Bool.and_true, decide_eq_true_eq] at h
    simp [AsmTerm.toInstr, AsmTerm.wellFormed, Mnemonic.operandBounds, operandsFit, Instr.term, Instr.mnemonic,
      Nat.mod_eq_of_lt, h]
  case getPixel | fbRead | probe | readGrid | cfgWrite =>
    obtain ⟨a, b, rfl⟩ := List.length_eq_two.mp hlength
    simp only [AsmTerm.wellFormed, Mnemonic.operandBounds, operandsFit, Bool.and_true, Bool.and_eq_true,
      decide_eq_true_eq] at h
    simp [AsmTerm.toInstr, AsmTerm.wellFormed, Mnemonic.operandBounds, operandsFit, Instr.term, Instr.mnemonic,
      Nat.mod_eq_of_lt, h]
  case setPixel | fbWrite =>
    obtain ⟨a, b, c, rfl⟩ := List.length_eq_three.mp hlength
    simp only [AsmTerm.wellFormed, Mnemonic.operandBounds, operandsFit, Bool.and_true, Bool.and_eq_true,
      decide_eq_true_eq] at h
    simp [AsmTerm.toInstr, AsmTerm.wellFormed, Mnemonic.operandBounds, operandsFit, Instr.term, Instr.mnemonic,
      Nat.mod_eq_of_lt, h]

/-- An operand of `n` bits is at most `2 ^ n - 1`. -/
theorem toNat_le_of_width {n m : Nat} (v : BitVec n) (h : 2 ^ n = m + 1) : v.toNat ≤ m := by
  have := v.isLt
  omega

end Sys2Proof

open Sys2Proof

/-- Settles O5: a term that fits is the term of a command, whose word puts each operand at its field; any other term has
a wrong number of operands or one above its bound. -/
theorem assemblyTermsFitOrAreRefused : Obligations.AssemblyTermsFitOrAreRefused := by
  intro t
  refine ⟨toInstr_of_not_wellFormed, fun h => ?_, ?_⟩
  · obtain ⟨i, hi, rfl⟩ := toInstr_of_wellFormed h
    exact ⟨i, hi, rfl⟩
  · cases h : t.wellFormed with
    | true =>
      obtain ⟨i, hi, rfl⟩ := toInstr_of_wellFormed h
      rw [hi]
      cases i <;> simp [Instr.term, Instr.mnemonic, encode, atBit, toNat_le_of_width]
    | false =>
      rw [toInstr_of_not_wellFormed h]
      obtain ⟨m, vs⟩ := t
      dsimp only
      split <;> simp_all [AsmTerm.wellFormed, Mnemonic.operandBounds, operandsFit] <;> omega
end

section
/-! PROOFS. The frame-buffer commands (40_mapper.md R125 to R129): what a pixel write makes of the bytes of `FB`, and
that a canonical memory is determined by what it reads as. -/

namespace Sys2Proof.Machine

/-! ### Canonical memories -/

theorem wf_iff {off : Byte} {m : Memory} :
    m.wf off = true ↔ (m.Pairwise fun c d => c.1 < d.1) ∧ ∀ c ∈ m, c.1 < 54 ∧ c.2 ≠ off := by
  simp [Memory.wf]

/-- Which cells a canonical memory lists is read off its bytes. -/
theorem mem_iff_memRead {off : Byte} {m : Memory} (hsorted : m.Pairwise fun c d => c.1 < d.1)
    (hlisted : ∀ c ∈ m, c.2 ≠ off) (c : Host.Cell) : c ∈ m ↔ memRead off m c.1 = c.2 ∧ c.2 ≠ off := by
  induction m with
  | nil => simp [memRead, eq_comm]
  | cons d m ih =>
    obtain ⟨hfirst, hrest⟩ := List.pairwise_cons.mp hsorted
    obtain ⟨hd, hm⟩ := List.forall_mem_cons.mp hlisted
    rw [List.mem_cons, memRead]
    by_cases hkey : c.1 = d.1
    · have hnotin : c ∉ m := fun hc => (hfirst c hc).ne hkey.symm
      rw [if_pos hkey]
      simp only [hnotin, or_false, Prod.ext_iff, hkey, true_and]
      exact ⟨fun h => ⟨h.symm, h ▸ hd⟩, fun h => h.1.symm⟩
    · rw [if_neg hkey, ← ih hrest hm]
      exact or_iff_right fun h => hkey (congrArg Prod.fst h)

/-- Lists of cells with rising addresses that have the same members are the same. -/
theorem memory_eq_of_mem_iff {m m' : Memory} (h : m.Pairwise fun c d => c.1 < d.1)
    (h' : m'.Pairwise fun c d => c.1 < d.1) (hmem : ∀ c, c ∈ m ↔ c ∈ m') : m = m' := by
  have : Std.Irrefl fun c d : Host.Cell => c.1 < d.1 := ⟨fun _ => lt_irrefl _⟩
  have : Std.Antisymm fun c d : Host.Cell => c.1 < d.1 := ⟨fun _ _ hlt hgt => absurd hgt hlt.not_gt⟩
  exact h.eq_of_mem_iff h' hmem

/-! ### The bits of a pixel -/

/-- The level that turns a plane bit on, or off (00_scope.md R12). -/
def State.planeLevel (s : State) (on : Bool) : Bool := if on then s.params.onLevel else !s.params.onLevel

theorem planeLevel_beq_onLevel (s : State) (on : Bool) : (s.planeLevel on == s.params.onLevel) = on := by
  cases on <;> simp [State.planeLevel]

/-- Plane `p` of a colour: 0 green, 1 red, 2 blue (40_mapper.md R122). -/
def planeOf (c : Colour) : Nat → Bool
  | 0 => c.g
  | 1 => c.r
  | _ => c.b

section
variable (s : State)

theorem fbByte_setFbBit_self (r b i : Nat) (v : Bool) :
    (s.setFbBit r b i v).fbByte r b = setBit (s.fbByte r b) i v := fbByte_setFbByte_self ..

@[simp] theorem setFbBit_params (r b i : Nat) (v : Bool) : (s.setFbBit r b i v).params = s.params := rfl

theorem memRead_setFbBit_other {off : Byte} (hoff : s.params.offByte = off) {r b a : Nat} (i : Nat) (v : Bool)
    (h : a ≠ fbAddr r b) : memRead off (s.setFbBit r b i v).fb a = memRead off s.fb a := by
  subst hoff
  exact memRead_memWrite_other _ _ _ h

theorem fbByte_setFbBit_other {r b b' : Nat} (i : Nat) (v : Bool) (h : b' ≠ b) :
    (s.setFbBit r b i v).fbByte r b' = s.fbByte r b' :=
  memRead_setFbBit_other s rfl i v fun heq => h (Nat.add_left_cancel heq)

theorem writePixel_frame (x y : Nat) (c : Colour) :
    s.writePixel x y c = { s with fb := (s.writePixel x y c).fb } := rfl

/-- A pixel write puts the level of each plane into the plane's byte. -/
theorem fbByte_writePixel_plane (x y : Nat) (c : Colour) {p : Nat} (hp : p ≤ 2) :
    (s.writePixel x y c).fbByte (mapper x y).row ((mapper x y).byte + p) =
      setBit (s.fbByte (mapper x y).row ((mapper x y).byte + p)) (mapper x y).bit (s.planeLevel (planeOf c p)) := by
  unfold State.writePixel
  interval_cases p
  · rw [fbByte_setFbBit_other _ _ _ (by omega), fbByte_setFbBit_other _ _ _ (by omega), Nat.add_zero,
      fbByte_setFbBit_self]
    rfl
  · rw [fbByte_setFbBit_other _ _ _ (by omega), fbByte_setFbBit_self, fbByte_setFbBit_other _ _ _ (by omega)]
    rfl
  · rw [fbByte_setFbBit_self, fbByte_setFbBit_other _ _ _ (by omega), fbByte_setFbBit_other _ _ _ (by omega)]
    rfl

/-- A pixel write changes no byte but the three of its planes. -/
theorem memRead_writePixel_other (x y : Nat) (c : Colour) {a : Nat}
    (h : ∀ p ≤ 2, a ≠ fbAddr (mapper x y).row ((mapper x y).byte + p)) :
    memRead s.params.offByte (s.writePixel x y c).fb a = memRead s.params.offByte s.fb a := by
  have hgreen : a ≠ fbAddr (mapper x y).row (mapper x y).byte := h 0 (by omega)
  unfold State.writePixel
  rw [memRead_setFbBit_other _ (by simp) _ _ (h 2 (by omega)), memRead_setFbBit_other _ (by simp) _ _ (h 1 (by omega)),
    memRead_setFbBit_other _ rfl _ _ hgreen]

end

/-- The bits of a plane's byte after a pixel write. -/
theorem getLsbD_writePixel_plane (s : State) (x y : Nat) (c : Colour) {p k : Nat} (hp : p ≤ 2) (hk : k < 8) :
    ((s.writePixel x y c).fbByte (mapper x y).row ((mapper x y).byte + p)).getLsbD k =
      if k = (mapper x y).bit then s.planeLevel (planeOf c p)
      else (s.fbByte (mapper x y).row ((mapper x y).byte + p)).getLsbD k := by
  rw [fbByte_writePixel_plane s x y c hp, getLsbD_setBit _ _ _ _ hk]

/-- The planes of different pixels have different bits, in different bytes or in the same. -/
theorem plane_bytes_ne {x y x' y' p q : Nat} (hx : x ≤ 11) (hy : y ≤ 11) (hx' : x' ≤ 11) (hy' : y' ≤ 11)
    (hp : p ≤ 2) (hq : q ≤ 2) (hne : ¬ (x' = x ∧ y' = y)) (hbit : (mapper x' y').bit = (mapper x y).bit) :
    fbAddr (mapper x' y').row ((mapper x' y').byte + p) ≠ fbAddr (mapper x y).row ((mapper x y).byte + q) := by
  intro haddr
  obtain ⟨-, hbyte, -⟩ := triple_of_quadrant (quadrant_mapper hx hy)
  obtain ⟨-, hbyte', -⟩ := triple_of_quadrant (quadrant_mapper hx' hy')
  simp only [List.mem_cons, List.not_mem_nil, or_false] at hbyte hbyte'
  obtain ⟨hrow, hcolumn⟩ := fbAddr_inj (by omega) (by omega) haddr
  have hgroup : (mapper x' y').byte = (mapper x y).byte := by omega
  exact hne (mapper_injOn hx' hy' hx hy (by
    rw [show mapper x' y' = ⟨_, _, _⟩ from rfl, show mapper x y = ⟨_, _, _⟩ from rfl, MapPos.mk.injEq]
    exact ⟨hrow, hgroup, hbit⟩))

/-- What GET_PIXEL sees of a plane after a pixel write. -/
theorem planeOn_writePixel (s : State) (c : Colour) {x y x' y' p : Nat} (hx : x ≤ 11) (hy : y ≤ 11) (hx' : x' ≤ 11)
    (hy' : y' ≤ 11) (hp : p ≤ 2) :
    (s.writePixel x y c).planeOn x' y' p = if x' = x ∧ y' = y then planeOf c p else s.planeOn x' y' p := by
  obtain ⟨-, -, hbit⟩ := triple_of_quadrant (quadrant_mapper hx' hy')
  by_cases hsame : x' = x ∧ y' = y
  · obtain ⟨rfl, rfl⟩ := hsame
    rw [if_pos ⟨rfl, rfl⟩, State.planeOn, getLsbD_writePixel_plane s x' y' c hp (by omega), if_pos rfl]
    exact planeLevel_beq_onLevel s _
  · rw [if_neg hsame, State.planeOn, State.planeOn]
    congr 1
    by_cases hbyte : ∃ q ≤ 2, fbAddr (mapper x' y').row ((mapper x' y').byte + p) =
        fbAddr (mapper x y).row ((mapper x y).byte + q)
    · obtain ⟨q, hq, haddr⟩ := hbyte
      have hother : (mapper x' y').bit ≠ (mapper x y).bit :=
        fun hb => plane_bytes_ne hx hy hx' hy' hp hq hsame hb haddr
      have hread : ∀ u : State, u.fbByte (mapper x' y').row ((mapper x' y').byte + p) =
          u.fbByte (mapper x y).row ((mapper x y).byte + q) := fun u => congrArg (memRead _ _) haddr
      rw [hread, hread, getLsbD_writePixel_plane s x y c hq (by omega), if_neg hother]
    · push Not at hbyte
      exact congrArg (BitVec.getLsbD · _) (memRead_writePixel_other s x y c hbyte)

/-! ### The commands -/

section
variable (s : State)

theorem exec_clear : exec .clear s = .next (s.setErr .ok).clearFb :=
  congrArg Host.Outcome.next (command_accepted (i := .clear) _ (absurd rfl) nofun rfl)

theorem onMatrix_iff {x y : BitVec 4} : onMatrix x y = true ↔ x.toNat ≤ 11 ∧ y.toNat ≤ 11 := by simp [onMatrix]

theorem onMatrix_eq_false_iff {x y : BitVec 4} : onMatrix x y = false ↔ 11 < x.toNat ∨ 11 < y.toNat := by
  rw [← Bool.not_eq_true, onMatrix_iff]
  omega

theorem exec_setPixel (x y : BitVec 4) (rgb : BitVec 3) : exec (.setPixel x y rgb) s = .next
    (if onMatrix x y then (s.setErr .ok).writePixel x.toNat y.toNat (colourOf rgb) else s.setErr .ok) :=
  congrArg Host.Outcome.next (command_accepted (i := .setPixel x y rgb) _ (absurd rfl) nofun rfl)

theorem exec_getPixel (x y : BitVec 4) : exec (.getPixel x y) s = .next
    ((s.setErr .ok).setResult (if onMatrix x y then s.pixelWord x.toNat y.toNat else 0)) := by
  rw [apply_ite (State.setResult _)]
  exact congrArg Host.Outcome.next (command_accepted (i := .getPixel x y) _ (absurd rfl) nofun rfl)

theorem exec_fbRead {row byte : BitVec 4} (hrow : row.toNat ≤ 5) (hbyte : byte.toNat ≤ 8) :
    exec (.fbRead row byte) s = .next ((s.setErr .ok).setResult ((s.fbByte row.toNat byte.toNat).setWidth 32)) :=
  congrArg Host.Outcome.next
    (command_accepted (i := .fbRead row byte) _ (absurd rfl) nofun (decide_eq_true ⟨hrow, hbyte⟩))

theorem exec_fbWrite {row byte : BitVec 4} (val : BitVec 8) (hrow : row.toNat ≤ 5) (hbyte : byte.toNat ≤ 8) :
    exec (.fbWrite row byte val) s = .next ((s.setErr .ok).setFbByte row.toNat byte.toNat val) :=
  congrArg Host.Outcome.next
    (command_accepted (i := .fbWrite row byte val) _ (absurd rfl) nofun (decide_eq_true ⟨hrow, hbyte⟩))

end

/-- The bits of the word GET_PIXEL returns (40_mapper.md R127). -/
theorem getLsbD_pixelWord (s : State) (x y k : Nat) : (s.pixelWord x y).getLsbD k =
    match k with
    | 0 => s.planeOn x y 2
    | 1 => s.planeOn x y 0
    | 2 => s.planeOn x y 1
    | 3 => true
    | _ => false := by
  unfold State.pixelWord
  rw [BitVec.getLsbD_append]
  simp only [BitVec.getLsbD_append]
  rcases k with _ | _ | _ | _ | k <;> simp

/-- The word for three planes that are a colour's (40_mapper.md R127). -/
theorem pixelWord_of_colour {s : State} {x y : Nat} {rgb : BitVec 3}
    (h : ∀ p ≤ 2, s.planeOn x y p = planeOf (colourOf rgb) p) : s.pixelWord x y = 0x8 ||| rgb.setWidth 32 := by
  unfold State.pixelWord
  rw [h 0 (by omega), h 1 (by omega), h 2 (by omega)]
  clear h
  revert rgb
  decide

end Sys2Proof.Machine

open Sys2Proof Sys2Proof.Machine

/-- Settles O20: a canonical memory lists exactly the cells it reads as other than `off`, in one order. -/
theorem canonicalMemoriesThatReadAlikeAreEqual : Obligations.CanonicalMemoriesThatReadAlikeAreEqual := by
  intro off m m' hm hm' hread
  obtain ⟨hsorted, hlisted⟩ := wf_iff.mp hm
  obtain ⟨hsorted', hlisted'⟩ := wf_iff.mp hm'
  refine memory_eq_of_mem_iff hsorted hsorted' fun c => ?_
  rw [mem_iff_memRead hsorted fun c hc => (hlisted c hc).2, mem_iff_memRead hsorted' fun c hc => (hlisted' c hc).2,
    hread]

/-- Settles O14: an empty list of cells reads `OFFBYTE` everywhere. -/
theorem clearTurnsEveryPixelOff : Obligations.ClearTurnsEveryPixelOff := by
  intro s
  refine ⟨_, exec_clear s, rfl, fun _ => rfl, fun hlow _ _ => ?_⟩
  rw [fbByte_clearFb]
  exact if_pos hlow

/-- Settles O15: on the matrix each plane's byte takes one bit, off it nothing is written. -/
theorem setPixelWritesThreeBits : Obligations.SetPixelWritesThreeBits := by
  constructor
  · intro s x y rgb hx hy
    have hexec := exec_setPixel s x y rgb
    rw [if_pos (onMatrix_iff.mpr ⟨hx, hy⟩)] at hexec
    refine ⟨_, hexec, writePixel_frame .., ?_⟩
    intro m level
    refine ⟨fun k hk => ?_, fun a hgreen hred hblue => ?_⟩
    · have hplane : ∀ p ≤ 2, _ := fun p hp =>
        getLsbD_writePixel_plane (s.setErr .ok) x.toNat y.toNat (colourOf rgb) hp hk
      exact ⟨hplane 0 (by omega), hplane 1 (by omega), hplane 2 (by omega)⟩
    · refine memRead_writePixel_other (s.setErr .ok) _ _ _ fun p hp => ?_
      interval_cases p
      · exact hgreen
      · exact hred
      · exact hblue
  · intro s x y rgb hout
    rw [exec_setPixel, onMatrix_eq_false_iff.mpr hout]
    rfl

/-- Settles O16: the bits of the returned word are the planes, and the result is 0 off the matrix. -/
theorem getPixelReadsThePlanes : Obligations.GetPixelReadsThePlanes := by
  constructor
  · intro s x y hx hy
    have hexec := exec_getPixel s x y
    rw [if_pos (onMatrix_iff.mpr ⟨hx, hy⟩)] at hexec
    refine ⟨_, hexec, rfl, getLsbD_pixelWord .., getLsbD_pixelWord .., getLsbD_pixelWord .., getLsbD_pixelWord ..,
      fun k hk => ?_⟩
    obtain ⟨j, rfl⟩ := Nat.exists_eq_add_of_le' hk
    exact getLsbD_pixelWord s _ _ (j + 4)
  · intro s x y hout
    rw [exec_getPixel, onMatrix_eq_false_iff.mpr hout]
    rfl

/-- Settles O17: a write changes the planes of its own pixel alone, and the word returned is made of the planes. -/
theorem pixelReadsBackAsWritten : Obligations.PixelReadsBackAsWritten := by
  intro s x y x' y' rgb hx hy hx' hy'
  have hset := exec_setPixel s x y rgb
  rw [if_pos (onMatrix_iff.mpr ⟨hx, hy⟩)] at hset
  refine ⟨_, _, _, hset, exec_getPixel _ x' y', exec_getPixel s x' y', ?_⟩
  have hplane : ∀ p ≤ 2, _ := fun p hp => planeOn_writePixel (s.setErr .ok) (colourOf rgb) hx hy hx' hy' hp
  simp only [onMatrix_iff.mpr ⟨hx', hy'⟩, if_true, State.setResult_result]
  simp only [BitVec.toNat_inj] at hplane
  split
  next hsame => exact pixelWord_of_colour fun p hp => (hplane p hp).trans (if_pos hsame)
  next hother =>
    have hkept : ∀ p ≤ 2, _ := fun p hp => (hplane p hp).trans (if_neg hother)
    unfold State.pixelWord
    rw [hkept 0 (by omega), hkept 1 (by omega), hkept 2 (by omega)]
    rfl

/-- Settles O18: the address of byte `(r, b)` is `9 r + b`. -/
theorem fbReadReturnsTheByte : Obligations.FbReadReturnsTheByte := by
  intro s row byte hrow hbyte
  exact exec_fbRead s hrow hbyte

/-- Settles O19: a memory write changes one address. -/
theorem fbWriteStoresOneByte : Obligations.FbWriteStoresOneByte := by
  intro s row byte val hrow hbyte
  exact ⟨_, exec_fbWrite s val hrow hbyte, rfl, fbByte_setFbByte_self .., fun _ ha => memRead_memWrite_other _ _ _ ha⟩
end

section
/-! PROOFS. The commands that complete in one step (44_debounce.md R205, R206; 43_scanner.md R181; 45_system.md) and the
registers the host reads (10_state.md R30 to R39; 20_memory.md R79). -/

namespace Sys2Proof.Machine

/-! ### The effects of the commands -/

section
variable (s : State)

theorem exec_nop : exec .nop s = .next (s.setErr .ok) :=
  congrArg Host.Outcome.next (command_accepted (i := .nop) _ (absurd rfl) nofun rfl)

theorem exec_clrStatus : exec .clrStatus s = .next ((s.setErr .ok).setOvf false) :=
  congrArg Host.Outcome.next (command_accepted (i := .clrStatus) _ (absurd rfl) nofun rfl)

theorem exec_popEvent : exec .popEvent s = .next (s.setErr .ok).popEvent :=
  congrArg Host.Outcome.next (command_accepted (i := .popEvent) _ (absurd rfl) nofun rfl)

theorem exec_cfgRead {idx : BitVec 8} (hidx : idx.toNat ≤ 5) :
    exec (.cfgRead idx) s = .next ((s.setErr .ok).setResult ((s.cfgWord idx).setWidth 32)) :=
  congrArg Host.Outcome.next (command_accepted (i := .cfgRead idx) _ (absurd rfl) nofun (decide_eq_true hidx))

end

section
variable {s : State} (hbusy : s.busy = false)
include hbusy

theorem exec_cfgWrite {idx : BitVec 8} (v : Half) (hidx : idx.toNat ≤ 4) :
    exec (.cfgWrite idx v) s = .next ((s.setErr .ok).setCfg (s.cfg.write idx v)) :=
  congrArg Host.Outcome.next (command_accepted (i := .cfgWrite idx v) _ (fun _ => hbusy) nofun (decide_eq_true hidx))

theorem exec_readGrid (bank : BitVec 1) {y : BitVec 4} (hy : y.toNat ≤ 11) :
    exec (.readGrid bank y) s = .next
      ((s.setErr .ok).setResult (gridRowWord (s.bank bank)[(Fin.ofNat 12 y.toNat).val])) :=
  congrArg Host.Outcome.next (command_accepted (i := .readGrid bank y) _ (fun _ => hbusy) nofun (decide_eq_true hy))

theorem exec_sample (hfault : s.fault = false) : exec .sample s = .next (s.setErr .ok).sampleLines :=
  congrArg Host.Outcome.next (command_accepted (i := .sample) _ (fun _ => hbusy) (fun _ => hfault) rfl)

theorem exec_draw (hfault : s.fault = false) :
    exec .draw s = .next ((s.setErr .ok).startLong 0xB (drawSteps s.params s.cfg)) :=
  congrArg Host.Outcome.next (command_accepted (i := .draw) _ (fun _ => hbusy) (fun _ => hfault) rfl)

end

/-! ### The words of the commands -/

/-- The word of an event as the sum of its fields (44_debounce.md R205), compared for each of the 288 events. -/
theorem event_word (e : Event) : e.word =
    0x80000000 ||| (if e.kind = .pressed then 0x100 else 0) ||| BitVec.ofNat 32 (16 * e.y.val) |||
      BitVec.ofNat 32 e.x.val := by
  have hevents : ∀ kind ∈ [EventKind.released, .pressed], ∀ y x : Fin 12, (Event.mk kind y x).word =
      0x80000000 ||| (if kind = .pressed then 0x100 else 0) ||| BitVec.ofNat 32 (16 * y.val) |||
        BitVec.ofNat 32 x.val := by decide
  exact hevents e.kind (by cases e.kind <;> simp) e.y e.x

theorem getLsbD_gridRowWord (row : Vector Bool 12) (k : Nat) :
    (gridRowWord row).getLsbD k = if h : k < 12 then row[k] else false := by
  unfold gridRowWord
  rw [BitVec.getLsbD_setWidth, BitVec.getLsbD_ofFnLE]
  by_cases h : k < 12
  · simp [h, show k < 32 by omega]
  · simp [h]

/-- The samples of SAMPLE are recorded in the order of the lines, at one time. -/
theorem foldl_observeSample (cs : List (Fin 6)) (s : State) :
    cs.foldl State.observeSample s =
      { s with trace := (cs.map fun c => (s.cycles, Obs.sample c (s.lineLevel c))).reverse ++ s.trace } := by
  induction cs generalizing s with
  | nil => rfl
  | cons c cs ih =>
    rw [List.foldl_cons, ih, List.map_cons, List.reverse_cons, List.append_assoc]
    rfl

theorem sampleLines_effect (s : State) :
    s.sampleLines = { s with
      senseLines := BitVec.ofFnLE fun c : Fin 6 => s.senses c
      trace := ((List.finRange 6).map fun c => (s.cycles, Obs.sample c (s.lineLevel c))).reverse ++ s.trace } := by
  rw [State.sampleLines, foldl_observeSample]

theorem getLsbD_ctrl (c : CfgRegs) (k : Nat) : (c.ctrl.setWidth 32).getLsbD k =
    match k with
    | 0 => c.antiGhost
    | 1 => c.coarse
    | 2 => c.irqEn
    | _ => false := by
  unfold CfgRegs.ctrl
  rw [BitVec.getLsbD_setWidth, BitVec.getLsbD_append]
  simp only [BitVec.getLsbD_append]
  rcases k with _ | _ | _ | k <;> simp

theorem extractLsb'_info_low (p : Params) :
    ((Params.info p).setWidth 32).extractLsb' 0 8 = BitVec.ofNat 8 p.evqDepth := by
  refine BitVec.eq_of_getLsbD_eq fun i hi => ?_
  unfold Params.info
  rw [BitVec.getLsbD_extractLsb', BitVec.getLsbD_setWidth, BitVec.getLsbD_append]
  simp [hi, show i < 32 by omega]

theorem getLsbD_info_high (p : Params) (k : Nat) : ((Params.info p).setWidth 32).getLsbD (k + 8) =
    match k with
    | 0 => p.colorActiveLow
    | 1 => p.latActiveHigh
    | 2 => p.inActiveLow
    | _ => false := by
  unfold Params.info
  rw [BitVec.getLsbD_setWidth, BitVec.getLsbD_append]
  simp only [BitVec.getLsbD_append]
  rcases k with _ | _ | _ | k <;> simp

/-! ### The words of the host registers -/

theorem evqNe_eq (s : State) : s.evqNe = decide (s.evq ≠ []) := by
  simp [State.evqNe, State.evqCount]

theorem evtIrq_eq (s : State) : s.evtIrq = (s.cfg.irqEn && decide (s.evq ≠ [])) := by
  simp [State.evtIrq, State.evqCount, List.length_pos_iff]

/-- The fields of one bit of `STATUS` (10_state.md R32). -/
theorem statusWord_bits (s : State) :
    s.statusWord.getLsbD 0 = s.busy ∧ s.statusWord.getLsbD 1 = s.fault ∧ s.statusWord.getLsbD 2 = s.ovf ∧
    s.statusWord.getLsbD 3 = s.evqNe ∧ s.statusWord.getLsbD 19 = s.evtIrq := by
  unfold State.statusWord
  rw [BitVec.getLsbD_append, BitVec.getLsbD_append, BitVec.getLsbD_append, BitVec.getLsbD_append, BitVec.getLsbD_append]
  simp only [BitVec.getLsbD_append]
  simp

/-- The wider fields of `STATUS` (10_state.md R32). -/
theorem statusWord_fields (s : State) :
    s.statusWord.extractLsb' 4 4 = s.err.code ∧ s.statusWord.extractLsb' 8 8 = BitVec.ofNat 8 s.evqCount ∧
    s.statusWord.extractLsb' 16 3 = s.pins.a ∧ s.statusWord.extractLsb' 20 4 = s.runop ∧
    s.statusWord.extractLsb' 24 8 = 0 := by
  unfold State.statusWord
  refine ⟨?_, ?_, ?_, ?_, ?_⟩
  all_goals
    rw [BitVec.extractLsb'_append_eq_of_le (by decide)]
    simp (disch := decide) only [BitVec.extractLsb'_append_eq_of_le, BitVec.extractLsb'_append_eq_of_add_le]
    simp

theorem senseWord_fields (s : State) :
    s.senseWord.extractLsb' 0 6 = s.senseLines ∧ s.senseWord.getLsbD 6 = s.senseProbe ∧
    s.senseWord.extractLsb' 7 25 = 0 := by
  unfold State.senseWord
  refine ⟨?_, ?_, ?_⟩
  · rw [BitVec.extractLsb'_append_eq_of_add_le (by decide), BitVec.extractLsb'_eq_self]
  · rw [BitVec.getLsbD_append]
    simp only [BitVec.getLsbD_append]
    simp
  · rw [BitVec.extractLsb'_append_eq_of_le (by decide)]
    simp (disch := decide) only [BitVec.extractLsb'_append_eq_of_le]
    simp

/-! ### Accesses of the registers -/

/-- A read of a register, at its offset, is recorded and does nothing else (20_memory.md R79). -/
theorem step_read {s : State} {rest : List Turn} {offset : Nat} {r : HostReg} (hreg : regAt offset = some r)
    (hwin : offset < 16) (hsched : s.schedule = .host (.read offset 4) :: rest) :
    step s = .next ((s.setSchedule rest).hostRead r) := by
  rw [step_eq_hostTurn hsched]
  simp [hostTurn, hostRequest, hreg, Nat.not_le.mpr hwin]

/-- A write of a read-only register is ignored (20_memory.md R79). -/
theorem step_write_readOnly {s : State} {rest : List Turn} {offset : Nat} {r : HostReg} {v : Word}
    (hreg : regAt offset = some r) (hr : r ≠ .cmd) (hwin : offset < 16)
    (hsched : s.schedule = .host (.write offset 4 v) :: rest) : step s = .next (s.setSchedule rest) := by
  rw [step_eq_hostTurn hsched]
  cases r <;> simp_all [hostTurn, hostRequest, Nat.not_le.mpr hwin]

/-- A write of CMD is a command word put to CORE (30_encoding.md R94). -/
theorem step_write_cmd {s : State} {rest : List Turn} {w : Word}
    (hsched : s.schedule = .host (.write 0 4 w) :: rest) : step s = commandWrite w (s.setSchedule rest) :=
  step_eq_hostTurn hsched

end Sys2Proof.Machine

open Sys2Proof Sys2Proof.Machine

/-- Settles O6: the write reaches `commandWrite`, and the word decodes. -/
theorem stepRunsTheDecodedCommand : Obligations.StepRunsTheDecodedCommand := by
  intro s w rest i hsched hop hd
  exact (step_write_cmd hsched).trans (commandWrite_of_decode (s := s.setSchedule rest) hop hd)

/-- Settles O55: the four offsets are those of the registers, and only CMD is written. -/
theorem registerAccessesHaveNoSideEffect : Obligations.RegisterAccessesHaveNoSideEffect := by
  intro s rest
  constructor
  · intro offset r hreg hsched
    simp only [List.mem_cons, Prod.mk.injEq, List.not_mem_nil, or_false] at hreg
    rcases hreg with ⟨rfl, rfl⟩ | ⟨rfl, rfl⟩ | ⟨rfl, rfl⟩ | ⟨rfl, rfl⟩ <;>
      exact step_read (by rfl) (by decide) hsched
  · intro offset v hoffset hsched
    simp only [List.mem_cons, List.not_mem_nil, or_false] at hoffset
    rcases hoffset with rfl | rfl | rfl
    · exact step_write_readOnly (r := .result) rfl nofun (by decide) hsched
    · exact step_write_readOnly (r := .status) rfl nofun (by decide) hsched
    · exact step_write_readOnly (r := .sense) rfl nofun (by decide) hsched

/-- Settles O56: the words are made of the fields in their places. -/
theorem statusAndSenseFieldsReadTheFlags : Obligations.StatusAndSenseFieldsReadTheFlags := by
  intro s
  obtain ⟨hbusy, hfault, hovf, hne, hirq⟩ := statusWord_bits s
  obtain ⟨herr, hcount, haddr, hrunop, hzero⟩ := statusWord_fields s
  refine ⟨hbusy, hfault, hovf, hne.trans (evqNe_eq s), herr, fun hlen => ?_, haddr, hirq.trans (evtIrq_eq s), hrunop,
    hzero, senseWord_fields s⟩
  rw [hcount, BitVec.toNat_ofNat]
  exact Nat.mod_eq_of_lt (by unfold State.evqCount; omega)

/-- Settles O30: the six samples are read in the state the command finds. -/
theorem sampleReadsTheSixLines : Obligations.SampleReadsTheSixLines := by
  intro s hbusy hfault
  refine ⟨_, exec_sample hbusy hfault, ?_, fun c => ?_, ?_⟩
  · rw [sampleLines_effect]
    rfl
  · rw [sampleLines_effect, BitVec.getLsbD_ofFnLE, dif_pos c.isLt]
    exact senses_eq s c
  · rw [sampleLines_effect]
    rfl

/-- Settles O39: the queue is empty or has an oldest event. -/
theorem popEventReturnsTheOldest : Obligations.PopEventReturnsTheOldest := by
  constructor
  · intro s e rest hevq
    rw [exec_popEvent, State.popEvent, show (s.setErr .ok).evq = e :: rest from hevq, ← event_word]
    rfl
  · intro s hevq
    rw [exec_popEvent, State.popEvent, show (s.setErr .ok).evq = [] from hevq]
    rfl

/-- Settles O40: bit `x` of the word is cell `x` of the row, and the bank chooses the grid. -/
theorem readGridReturnsTheRow : Obligations.ReadGridReturnsTheRow := by
  intro s bank y hbusy
  have hy : (BitVec.ofNat 4 y.val).toNat = y.val := by
    rw [BitVec.toNat_ofNat]
    omega
  refine ⟨_, exec_readGrid hbusy bank (by omega), rfl, fun x => ?_, fun k hk => ?_⟩
  · rw [State.setResult_result, getLsbD_gridRowWord, dif_pos x.isLt]
    simp only [hy, State.bank, Fin.ofNat_val_eq_self]
    split <;> rfl
  · rw [State.setResult_result, getLsbD_gridRowWord, dif_neg (Nat.not_lt.mpr hk)]

/-- Settles O41: neither command is ever refused. -/
theorem nopAndClrStatusClearTheirFlags : Obligations.NopAndClrStatusClearTheirFlags :=
  fun s => ⟨exec_nop s, exec_clrStatus s⟩

/-- Settles O42: each register is read in its own width, the bits above it being 0. -/
theorem cfgReadReturnsTheRegister : Obligations.CfgReadReturnsTheRegister := by
  intro s
  refine ⟨exec_cfgRead s (by decide), exec_cfgRead s (by decide), exec_cfgRead s (by decide), ?_,
    ⟨_, exec_cfgRead s (by decide), rfl, getLsbD_ctrl _ 0, getLsbD_ctrl _ 1, getLsbD_ctrl _ 2, fun k hk => ?_⟩,
    ⟨_, exec_cfgRead s (by decide), rfl, fun hdepth => ?_, getLsbD_info_high _ 0, getLsbD_info_high _ 1,
      getLsbD_info_high _ 2, fun k hk => ?_⟩⟩
  · rw [exec_cfgRead s (by decide)]
    have hwidth : (0#8 ++ s.cfg.debThresh : Half).setWidth 32 = s.cfg.debThresh.setWidth 32 := by
      refine BitVec.eq_of_toNat_eq ?_
      rw [BitVec.toNat_setWidth, BitVec.toNat_append]
      simp
    exact congrArg (fun v => Host.Outcome.next ((s.setErr .ok).setResult v)) hwidth
  · obtain ⟨j, rfl⟩ := Nat.exists_eq_add_of_le' hk
    exact getLsbD_ctrl _ (j + 3)
  · refine (congrArg BitVec.toNat (extractLsb'_info_low s.params)).trans ?_
    rw [BitVec.toNat_ofNat]
    exact Nat.mod_eq_of_lt (by omega)
  · obtain ⟨j, rfl⟩ := Nat.exists_eq_add_of_le' hk
    exact getLsbD_info_high _ (j + 3)

/-- Settles O43: each index writes its own register. -/
theorem cfgWriteStoresTheRegister : Obligations.CfgWriteStoresTheRegister := by
  intro s v hbusy
  refine ⟨exec_cfgWrite hbusy v (by decide), exec_cfgWrite hbusy v (by decide), exec_cfgWrite hbusy v (by decide), ?_,
    exec_cfgWrite hbusy v (by decide)⟩
  rw [exec_cfgWrite hbusy v (by decide)]
  rfl

/-- Settles O45: reset clears `BUSY` and `FAULT`, the two causes for which DRAW is refused. -/
theorem softResetRecoversFromAFault : Obligations.SoftResetRecoversFromAFault := by
  intro s hbusy
  refine ⟨_, exec_softReset hbusy, ?_⟩
  rw [applyReset_all]
  exact ⟨rfl, rfl, rfl, rfl, _, exec_draw rfl rfl, rfl, rfl⟩
end

section
/-! PROOFS. What a step of the machine can do (00_scope.md R25, R26), and the whole-machine rules read off it: which
agent changes the pins, the flags, the configuration and the parameters, and how CORE leaves reset. -/

namespace Sys2Proof.Machine

/-! ### Turns -/

theorem regAt_eq_cmd_iff {offset : Nat} : regAt offset = some .cmd ↔ offset = 0 := by
  unfold regAt
  split <;> simp_all

/-- The only request that puts a command to CORE is a 32-bit write at offset 0 (20_memory.md R75, R77). -/
theorem hostRequest_eq_command_iff {access : HostAccess} {w : Word} :
    hostRequest access = .command w ↔ access = .write 0 4 w := by
  constructor
  · intro h
    cases access with
    | write offset bytes v =>
      simp only [hostRequest] at h
      split at h
      · cases h
      split at h
      next hreg =>
        obtain rfl := regAt_eq_cmd_iff.mp hreg
        split at h
        next hwidth =>
          cases h
          rw [hwidth]
        next => cases h
      next => split at h <;> cases h
      next => cases h
    | read offset bytes =>
      simp only [hostRequest] at h
      split at h
      · cases h
      split at h
      next => split at h <;> cases h
      next => cases h
  · rintro rfl
    rfl

/-- It is the sequencer's turn, or no agent's, and then the sequencer moves alone. -/
def State.sequencerNext (s : State) : Prop := s.schedule = [] ∨ ∃ rest, s.schedule = .sequencer :: rest

/-- The turns that neither move the sequencer nor run a command nor reset CORE, by what they lead to. -/
inductive QuietTurn (s : State) : State → Prop
  /-- A write without effect: of a read-only register, or of CMD while CORE is held in reset. -/
  | ignored (rest : List Turn) : QuietTurn s (s.setSchedule rest)
  | illegal (rest : List Turn) (hop : s.operating = true) : QuietTurn s ((s.setSchedule rest).setErr .illegal)
  | read (rest : List Turn) (r : HostReg) : QuietTurn s ((s.setSchedule rest).hostRead r)
  | levels (rest : List Turn) (levels : Inputs) (hhigh : levels.rstN = true) :
    QuietTurn s { s.setSchedule rest with inputs := levels }
  | clock (n : Nat) (rest : List Turn) (hsched : s.schedule = .clock n :: rest) :
    QuietTurn s ((s.setSchedule rest).clockTurn n)

/-- Everything a step that answers a next state can be. -/
inductive StepTo (s : State) : State → Prop
  | sequencer (rest : List Turn) (hnext : s.sequencerNext) : StepTo s (s.setSchedule rest).sequencerTurn
  | command {w : Word} {rest : List Turn} {i : Instr} {t : State} (hsched : s.schedule = .host (.write 0 4 w) :: rest)
    (hop : s.operating = true) (hd : decode w = .ok i) (hexec : exec i (s.setSchedule rest) = .next t) : StepTo s t
  | pinReset {levels : Inputs} {rest : List Turn} (hsched : s.schedule = .environment levels :: rest)
    (hlow : levels.rstN = false) : StepTo s { s.setSchedule rest with inputs := levels }.pinReset
  | quiet {t : State} (hquiet : QuietTurn s t) : StepTo s t

theorem hostTurn_to {s t : State} {access : HostAccess} {rest : List Turn} (hsched : s.schedule = .host access :: rest)
    (h : hostTurn access (s.setSchedule rest) = .next t) : StepTo s t := by
  unfold hostTurn at h
  split at h
  next w hreq =>
    rw [hostRequest_eq_command_iff] at hreq
    subst hreq
    rcases commandWrite_cases h with ⟨-, rfl⟩ | ⟨hop, -, rfl⟩ | ⟨hop, i, hd, hexec⟩
    · exact .quiet (.ignored rest)
    · exact .quiet (.illegal rest hop)
    · exact .command hsched hop hd hexec
  next r _ =>
    cases h
    exact .quiet (.read rest r)
  next =>
    cases h
    exact .quiet (.ignored rest)
  next => cases h
  next => cases h

theorem step_to {s t : State} (h : step s = .next t) : StepTo s t := by
  rcases step_cases h with ⟨hnone, rfl⟩ | ⟨turn, rest, hsched, hturn⟩
  · have hs : s.setSchedule [] = s := by
      rw [← hnone]
      rfl
    have hto := StepTo.sequencer (s := s) [] (.inl hnone)
    rwa [hs] at hto
  · cases turn with
    | host access => exact hostTurn_to hsched hturn
    | sequencer =>
      cases hturn
      exact .sequencer rest (.inr ⟨rest, hsched⟩)
    | environment levels =>
      cases hturn
      cases hlevel : levels.rstN with
      | false =>
        rw [environmentTurn_of_rstN_low _ hlevel]
        exact .pinReset hsched hlevel
      | true =>
        rw [show (s.setSchedule rest).environmentTurn levels = _ from if_pos hlevel]
        exact .quiet (.levels rest levels hlevel)
    | clock n =>
      cases hturn
      exact .quiet (.clock n rest hsched)

/-- A quiet turn leaves every state of CORE as it is but `STATUS.ERR`, the wait counter and the hold of reset. -/
theorem QuietTurn.frame {s t : State} (h : QuietTurn s t) :
    ∃ turns e tr w c held levels, t = { s with
      schedule := turns, err := e, trace := tr, waitCount := w, cycles := c, resetHeld := held, inputs := levels } := by
  cases h with
  | ignored rest => exact ⟨_, _, _, _, _, _, _, rfl⟩
  | illegal rest => exact ⟨_, _, _, _, _, _, _, rfl⟩
  | read rest r => exact ⟨_, _, _, _, _, _, _, rfl⟩
  | levels rest levels => exact ⟨_, _, _, _, _, _, _, rfl⟩
  | clock n rest =>
    rcases clockTurn_cases (s.setSchedule rest) n with ⟨-, -, hclock⟩ | ⟨-, hclock⟩ <;> rw [hclock] <;>
      exact ⟨_, _, _, _, _, _, _, rfl⟩

/-! ### Commands -/

/-- The bus steps of a long command, for the parameters and the configuration it is accepted with; none for a command
that completes at once. `exec_long` ties it to the model. -/
def longSteps (p : Params) (cfg : CfgRegs) : Instr → List BusStep
  | .select ch => selectSteps (resolve p ch)
  | .setAddr addr => selectSteps addr
  | .sendRow row => sendSteps (.fbRow (Fin.ofNat 6 row.toNat))
  | .sendBlank => sendSteps .blank
  | .probe x y => probeCommandSteps (Fin.ofNat 12 x.toNat) (Fin.ofNat 12 y.toNat)
  | .draw => drawSteps p cfg
  | .scan => scanSteps p cfg
  | _ => []

/-- A long command's effect is to begin with its bus steps (30_encoding.md R94). -/
theorem exec_long {i : Instr} (hlong : i.isLong = true) (s : State) :
    exec i s = .next (s.command i fun s => s.startLong i.op (longSteps s.params s.cfg i)) := by
  cases i
  case select | setAddr | sendRow | sendBlank | probe | draw | scan => rfl
  all_goals cases hlong

/-- Every long command is of class B (30_encoding.md R91). -/
theorem cmdClass_of_isLong {i : Instr} (hlong : i.isLong = true) : i.cmdClass = .bus := by
  cases i
  case select | setAddr | sendRow | sendBlank | probe | draw | scan => rfl
  all_goals cases hlong

/-- A long command is accepted while CORE is idle and without fault. -/
theorem exec_long_accepted {s : State} {i : Instr} (hlong : i.isLong = true) (hbusy : s.busy = false)
    (hfault : s.fault = false) (hrange : i.inRange = true) :
    exec i s = .next ((s.setErr .ok).startLong i.op (longSteps s.params s.cfg i)) :=
  (exec_long hlong s).trans
    (congrArg Host.Outcome.next (command_accepted _ (fun _ => hbusy) (fun _ => hfault) hrange))

/-- Everything a long command can do: it is refused, or it begins. -/
theorem exec_long_cases {s t : State} {i : Instr} (hlong : i.isLong = true) (h : exec i s = .next t) :
    (∃ e, e ≠ ErrCode.ok ∧ t = s.setErr e) ∨
    (s.busy = false ∧ s.fault = false ∧ t = (s.setErr .ok).startLong i.op (longSteps s.params s.cfg i)) := by
  rw [exec_long hlong] at h
  cases h
  have hclass := cmdClass_of_isLong hlong
  rcases command_cases s i fun s => s.startLong i.op (longSteps s.params s.cfg i) with
    ⟨-, -, h⟩ | ⟨-, -, -, h⟩ | ⟨-, h⟩ | ⟨-, hbusy, hfault, h⟩
  · exact .inl ⟨_, by decide, h⟩
  · exact .inl ⟨_, by decide, h⟩
  · exact .inl ⟨_, by decide, h⟩
  · exact .inr ⟨hbusy (by rw [hclass]; nofun), hfault hclass, h⟩

/-- What a command other than SOFT_RESET that completes at once can change, and which command changes the queue, the
configuration and `OVF`. -/
structure ShortFrame (i : Instr) (s t : State) : Prop where
  frame : ∃ r e sl tr o cfg evq fb, t = { s with
    result := r, err := e, senseLines := sl, trace := tr, ovf := o, cfg := cfg, evq := evq, fb := fb }
  evq : t.evq = s.evq ∨ i = .popEvent ∧ t.evq = s.evq.tail
  cfg : t.cfg = s.cfg ∨ s.busy = false ∧ ∃ k v, i = .cfgWrite k v ∧ t.cfg = s.cfg.write k v
  ovf : t.ovf = s.ovf ∨ i = .clrStatus ∧ t.ovf = false
  fbForm : s.fb.wf s.params.offByte = true → t.fb.wf s.params.offByte = true

/-- What changes neither the queue nor the configuration nor `OVF` nor `FB` is within the frame. -/
theorem ShortFrame.of_frame {i : Instr} {s t : State}
    (h : ∃ r e sl tr, t = { s with result := r, err := e, senseLines := sl, trace := tr }) : ShortFrame i s t := by
  obtain ⟨r, e, sl, tr, rfl⟩ := h
  exact ⟨⟨_, _, _, _, _, _, _, _, rfl⟩, .inl rfl, .inl rfl, .inl rfl, id⟩

theorem popEvent_effect (s : State) : ∃ r, s.popEvent = { s with result := r, evq := s.evq.tail } := by
  unfold State.popEvent
  split
  next hevq => exact ⟨0, by rw [hevq, List.tail_nil, ← hevq]; rfl⟩
  next e rest hevq => exact ⟨e.word, by rw [hevq]; rfl⟩

theorem wf_setFbByte {s : State} {r b : Nat} (v : Byte) (hr : r ≤ 5) (hb : b ≤ 8)
    (h : s.fb.wf s.params.offByte = true) : (s.setFbByte r b v).fb.wf s.params.offByte = true :=
  memWrite_wf v h (by unfold fbAddr; omega)

theorem wf_setFbBit {s : State} {off : Byte} (hoff : s.params.offByte = off) {r b : Nat} (i : Nat) (v : Bool)
    (hr : r ≤ 5) (hb : b ≤ 8) (h : s.fb.wf off = true) : (s.setFbBit r b i v).fb.wf off = true := by
  subst hoff
  exact wf_setFbByte _ hr hb h

theorem wf_writePixel {s : State} {x y : Nat} (c : Colour) (hx : x ≤ 11) (hy : y ≤ 11)
    (h : s.fb.wf s.params.offByte = true) : (s.writePixel x y c).fb.wf s.params.offByte = true := by
  obtain ⟨hrow, hbyte, -⟩ := triple_of_quadrant (quadrant_mapper hx hy)
  simp only [List.mem_cons, List.not_mem_nil, or_false] at hbyte
  simp only [State.writePixel]
  refine wf_setFbBit (by simp) _ _ hrow (by omega) (wf_setFbBit (by simp) _ _ hrow (by omega) ?_)
  exact wf_setFbBit rfl _ _ hrow (by omega) h

/-- What a command that completes at once leaves, SOFT_RESET apart. -/
theorem exec_short {i : Instr} {s t : State} (hshort : i.isLong = false) (hreset : i ≠ .softReset)
    (h : exec i s = .next t) : ShortFrame i s t := by
  have hrejected : ∀ e, ShortFrame i s (s.setErr e) := fun e => .of_frame ⟨_, _, _, _, rfl⟩
  cases i
  case select | setAddr | sendRow | sendBlank | probe | draw | scan => cases hshort
  case softReset => exact absurd rfl hreset
  all_goals obtain rfl := Host.Outcome.next.inj h
  case nop => exact command_keeps hrejected fun _ _ _ => hrejected _
  case cfgRead | fbRead | readGrid => exact command_keeps hrejected fun _ _ _ => .of_frame ⟨_, _, _, _, rfl⟩
  case getPixel x y =>
    refine command_keeps hrejected fun _ _ _ => ?_
    split <;> exact .of_frame ⟨_, _, _, _, rfl⟩
  case sample =>
    refine command_keeps hrejected fun _ _ _ => ?_
    rw [sampleLines_effect]
    exact .of_frame ⟨_, _, _, _, rfl⟩
  case clrStatus =>
    exact command_keeps hrejected fun _ _ _ => ⟨⟨_, _, _, _, _, _, _, _, rfl⟩, .inl rfl, .inl rfl, .inr ⟨rfl, rfl⟩, id⟩
  case popEvent =>
    refine command_keeps hrejected fun _ _ _ => ?_
    obtain ⟨r, hpop⟩ := popEvent_effect (s.setErr .ok)
    rw [hpop]
    exact ⟨⟨_, _, _, _, _, _, _, _, rfl⟩, .inr ⟨rfl, rfl⟩, .inl rfl, .inl rfl, id⟩
  case cfgWrite k v =>
    refine command_keeps hrejected fun _ hbusy _ => ?_
    exact ⟨⟨_, _, _, _, _, _, _, _, rfl⟩, .inl rfl, .inr ⟨hbusy nofun, k, v, rfl, rfl⟩, .inl rfl, id⟩
  case clear =>
    exact command_keeps hrejected fun _ _ _ =>
      ⟨⟨_, _, _, _, _, _, _, _, rfl⟩, .inl rfl, .inl rfl, .inl rfl, fun _ => wf_nil _⟩
  case fbWrite row byte val =>
    refine command_keeps hrejected fun hrange _ _ => ?_
    obtain ⟨hrow, hbyte⟩ := of_decide_eq_true hrange
    exact ⟨⟨_, _, _, _, _, _, _, _, rfl⟩, .inl rfl, .inl rfl, .inl rfl,
      wf_setFbByte (s := s.setErr .ok) val hrow hbyte⟩
  case setPixel x y rgb =>
    refine command_keeps hrejected fun _ _ _ => ?_
    split
    next hmatrix =>
      obtain ⟨hx, hy⟩ := onMatrix_iff.mp hmatrix
      exact ⟨⟨_, _, _, _, _, _, _, _, rfl⟩, .inl rfl, .inl rfl, .inl rfl,
        wf_writePixel (s := s.setErr .ok) (colourOf rgb) hx hy⟩
    next => exact hrejected _

/-- Everything a command can do: SOFT_RESET resets an idle CORE, a long command begins, and the others keep to their
frame. -/
theorem exec_cases {i : Instr} {s t : State} (h : exec i s = .next t) :
    ShortFrame i s t ∨
    (i = .softReset ∧ s.busy = false ∧ t = (s.setErr .ok).applyReset) ∨
    (i.isLong = true ∧ s.busy = false ∧ s.fault = false ∧
      t = (s.setErr .ok).startLong i.op (longSteps s.params s.cfg i)) := by
  cases hlong : i.isLong with
  | true =>
    rcases exec_long_cases hlong h with ⟨e, -, rfl⟩ | ⟨hbusy, hfault, rfl⟩
    · exact .inl (.of_frame ⟨_, _, _, _, rfl⟩)
    · exact .inr (.inr ⟨rfl, hbusy, hfault, rfl⟩)
  | false =>
    by_cases hreset : i = .softReset
    · subst hreset
      obtain rfl := Host.Outcome.next.inj h
      rcases command_cases s .softReset fun s => s.applyReset with ⟨-, -, h⟩ | ⟨-, -, -, h⟩ | ⟨-, h⟩ | ⟨-, hbusy, -, h⟩ <;>
        rw [h]
      · exact .inl (.of_frame ⟨_, _, _, _, rfl⟩)
      · exact .inl (.of_frame ⟨_, _, _, _, rfl⟩)
      · exact .inl (.of_frame ⟨_, _, _, _, rfl⟩)
      · exact .inr (.inl ⟨rfl, hbusy nofun, rfl⟩)
    · exact .inl (exec_short hlong hreset h)

/-! ### The sequencer's turn -/

/-- Everything the sequencer's turn can do: nothing, or the next bus step once its wait has passed. -/
theorem sequencerTurn_cases (s : State) :
    s.sequencerTurn = s ∨
    (s.operating = true ∧ ∃ b rest, s.progress = b :: rest ∧
      s.sequencerTurn = ((s.countDown s.waitCount).setProgress rest).perform b) := by
  unfold State.sequencerTurn
  split
  next hop =>
    cases hprog : s.progress with
    | nil => exact .inl (sequencerStep_idle hprog)
    | cons b rest => exact .inr ⟨hop, b, rest, rfl, sequencerStep_cons hprog⟩
  next => exact .inl rfl

theorem sequencerTurn_keeps (s : State) : s.sequencerTurn.params = s.params ∧ s.sequencerTurn.cfg = s.cfg ∧
    s.sequencerTurn.inputs = s.inputs ∧ s.sequencerTurn.resetHeld = s.resetHeld := by
  unfold State.sequencerTurn
  obtain ⟨hparams, hinputs, hheld, -, hcfg, -⟩ := sequencerStep_keeps s
  split
  · exact ⟨hparams, hcfg, hinputs, hheld⟩
  · exact ⟨rfl, rfl, rfl, rfl⟩

/-- A bus step never clears `FAULT`. -/
theorem perform_fault {s : State} (b : BusStep) (h : s.fault = true) : (s.perform b).fault = true := by
  cases b with
  | shiftBit =>
    rcases shiftBitStep_cases s with ⟨-, hstep⟩ | ⟨-, -, hstep⟩ | ⟨_, -, hstep⟩ <;>
      simp [State.perform, hstep, transportFault_all, sendBit_effect, h]
  | cellSample c y x => by_cases hsense : s.senses c = true <;> simp [State.perform, State.cellSampleStep, hsense, h]
  | coarseSample c => by_cases hsense : s.senses c = true <;> simp [State.perform, State.coarseSampleStep, hsense, h]
  | debouncePass =>
    obtain ⟨_, _, _, _, _, hpass⟩ := debouncePass_frame s
    simp [State.perform, hpass, h]
  | _ => simp [State.perform, State.takeSnapshot, State.clearRaw, beginShiftStep_effect, latchOnStep_effect,
      State.probeSampleStep, h]

/-- The debounce pass is the only bus step that offers events to the queue. -/
theorem perform_queue (s : State) (b : BusStep) :
    (b = .debouncePass ∧ Queued s (s.perform b) s.passEvents) ∨
    ((s.perform b).evq = s.evq ∧ (s.perform b).ovf = s.ovf) := by
  cases b with
  | shiftBit =>
    rcases shiftBitStep_cases s with ⟨-, hstep⟩ | ⟨-, -, hstep⟩ | ⟨_, -, hstep⟩ <;>
      simp [State.perform, hstep, transportFault_all, sendBit_effect]
  | cellSample c y x => by_cases hsense : s.senses c = true <;> simp [State.perform, State.cellSampleStep, hsense]
  | coarseSample c => by_cases hsense : s.senses c = true <;> simp [State.perform, State.coarseSampleStep, hsense]
  | debouncePass =>
    obtain ⟨hevq, hovf⟩ : Queued s s.debouncePass s.passEvents := debounceCells_queued allCells_nodup s
    have hperform : s.perform .debouncePass = s.debouncePass.elapse s.params.tDeb := rfl
    rw [hperform]
    exact .inl ⟨rfl, (State.elapse_evq ..).trans hevq, (State.elapse_ovf ..).trans hovf⟩
  | _ => simp [State.perform, State.takeSnapshot, State.clearRaw, beginShiftStep_effect, latchOnStep_effect,
      State.probeSampleStep]

theorem sequencerTurn_fault {s : State} (h : s.fault = true) : s.sequencerTurn.fault = true := by
  rcases sequencerTurn_cases s with hturn | ⟨-, b, rest, -, hturn⟩ <;> rw [hturn]
  · exact h
  · exact perform_fault b h

theorem sequencerTurn_queue (s : State) :
    (s.sequencerTurn.evq = s.evq ∧ s.sequencerTurn.ovf = s.ovf) ∨
    ((∃ rest, s.progress = .debouncePass :: rest) ∧ Queued s s.sequencerTurn s.passEvents) := by
  rcases sequencerTurn_cases s with hturn | ⟨-, b, rest, hprog, hturn⟩ <;> rw [hturn]
  · exact .inl ⟨rfl, rfl⟩
  · rcases perform_queue ((s.countDown s.waitCount).setProgress rest) b with ⟨rfl, hqueued⟩ | hkept
    · exact .inr ⟨⟨rest, hprog⟩, hqueued⟩
    · exact .inl hkept

theorem sequencerTurn_evq (s : State) : ∃ es, s.sequencerTurn.evq = s.evq ++ es := by
  rcases sequencerTurn_queue s with ⟨hevq, -⟩ | ⟨-, hevq, -⟩
  · exact ⟨[], by rw [hevq, List.append_nil]⟩
  · exact ⟨_, hevq⟩

/-! ### Where a reset comes from -/

/-- A flag is not at both levels. -/
theorem absurd_flag {b : Bool} {p : Prop} (hset : b = true) (hclear : b = false) : p :=
  absurd (hset.symm.trans hclear) nofun

/-- The next turn writes the word of a command to CMD. -/
def State.commandNext (s : State) (i : Instr) : Prop := ∃ rest, s.schedule = .host (.write 0 4 (encode i)) :: rest

theorem commandNext_of_decode {s : State} {w : Word} {rest : List Turn} {i : Instr}
    (hsched : s.schedule = .host (.write 0 4 w) :: rest) (hd : decode w = .ok i) : s.commandNext i :=
  ⟨rest, by rw [← decode_ok_iff_encode.mp hd, hsched]⟩

theorem operating_of_held {s : State} (h : s.resetHeld = true) : s.operating = false := by
  simp [State.operating, h]

/-- CORE that does not operate is held in reset, if it is held while `RST_n` is 0 (70_reset_and_hazards.md R270). -/
theorem held_of_not_operating {s : State} (hlow : s.inputs.rstN = false → s.resetHeld = true)
    (hop : s.operating = false) : s.resetHeld = true := by
  cases hrst : s.inputs.rstN with
  | false => exact hlow hrst
  | true => simpa [State.operating, hrst] using hop

theorem pinReset_flags (s : State) : s.pinReset.fault = false ∧ s.pinReset.ovf = false ∧ s.pinReset.evq = [] := by
  rw [← (pinReset_holds s).2]
  exact ⟨rfl, rfl, rfl⟩

end Sys2Proof.Machine

open Sys2Proof Sys2Proof.Machine

/-- Settles O54: no agent's turn changes the parameters. -/
theorem parametersNeverChange : Obligations.ParametersNeverChange := by
  intro s t h
  cases step_to h with
  | sequencer rest => exact (sequencerTurn_keeps (s.setSchedule rest)).1
  | command _ _ _ hexec =>
    rcases exec_cases hexec with hshort | ⟨-, -, rfl⟩ | ⟨-, -, -, rfl⟩
    · obtain ⟨_, _, _, _, _, _, _, _, rfl⟩ := hshort.frame
      rfl
    · rfl
    · rfl
  | pinReset => exact (pinReset_keeps _).1
  | quiet hquiet =>
    obtain ⟨_, _, _, _, _, _, _, rfl⟩ := hquiet.frame
    rfl

/-- Settles O48: the sequencer and the quiet turns keep `FAULT`, and of the commands only SOFT_RESET changes it. -/
theorem onlyResetClearsFault : Obligations.OnlyResetClearsFault := by
  intro s t h hset hclear
  cases step_to h with
  | sequencer rest =>
    have := sequencerTurn_fault (s := s.setSchedule rest) hset
    simp_all
  | command hsched _ hd hexec =>
    rcases exec_cases hexec with hshort | ⟨rfl, -, -⟩ | ⟨-, -, hfault, -⟩
    · obtain ⟨_, _, _, _, _, _, _, _, rfl⟩ := hshort.frame
      exact absurd_flag hset hclear
    · exact .inl (commandNext_of_decode hsched hd)
    · exact absurd_flag hset hfault
  | pinReset hsched hlow => exact .inr ⟨_, _, hsched, hlow⟩
  | quiet hquiet =>
    obtain ⟨_, _, _, _, _, _, _, rfl⟩ := hquiet.frame
    exact absurd_flag hset hclear

/-- Settles O50: a command drives no pin, SOFT_RESET apart, and neither does a quiet turn. -/
theorem onlyTheSequencerDrivesThePins : Obligations.OnlyTheSequencerDrivesThePins := by
  intro s t h hpins
  cases step_to h with
  | sequencer rest hnext => exact hnext.imp_right .inl
  | command hsched _ hd hexec =>
    rcases exec_cases hexec with hshort | ⟨rfl, -, -⟩ | ⟨-, -, -, rfl⟩
    · obtain ⟨_, _, _, _, _, _, _, _, rfl⟩ := hshort.frame
      exact absurd rfl hpins
    · exact .inr (.inr (.inl (commandNext_of_decode hsched hd)))
    · exact absurd rfl hpins
  | pinReset hsched hlow => exact .inr (.inr (.inr ⟨_, _, hsched, hlow⟩))
  | quiet hquiet =>
    obtain ⟨_, _, _, _, _, _, _, rfl⟩ := hquiet.frame
    exact absurd rfl hpins

/-- Settles O51: CFG_WRITE and SOFT_RESET, the commands that change the configuration, are refused while `BUSY`. -/
theorem configurationIsConstantWhileBusy : Obligations.ConfigurationIsConstantWhileBusy := by
  intro s t h hbusy hcfg
  cases step_to h with
  | sequencer rest => exact absurd (sequencerTurn_keeps (s.setSchedule rest)).2.1 hcfg
  | command _ _ _ hexec =>
    rcases exec_cases hexec with hshort | ⟨-, hidle, -⟩ | ⟨-, hidle, -⟩
    · rcases hshort.cfg with hkept | ⟨hidle, -⟩
      · exact absurd hkept hcfg
      · exact absurd_flag hbusy hidle
    · exact absurd_flag hbusy hidle
    · exact absurd_flag hbusy hidle
  | pinReset hsched hlow => exact ⟨_, _, hsched, hlow⟩
  | quiet hquiet =>
    obtain ⟨_, _, _, _, _, _, _, rfl⟩ := hquiet.frame
    exact absurd rfl hcfg

/-- Settles O53: only the debounce pass offers events, and only the two commands and `RST_n` write `OVF` otherwise. -/
theorem overflowFlagHasItsWriters : Obligations.OverflowFlagHasItsWriters := by
  intro s t h
  have kept : ∀ {P Q : Prop}, t.ovf = s.ovf →
      (s.ovf = false → t.ovf = true → P) ∧ (s.ovf = true → t.ovf = false → Q) := fun hovf =>
    ⟨fun hclear hset => absurd_flag hset (hovf.trans hclear), fun hset hclear => absurd_flag (hovf.trans hset) hclear⟩
  cases step_to h with
  | sequencer rest hnext =>
    rcases sequencerTurn_queue (s.setSchedule rest) with ⟨-, hovf⟩ | ⟨hpass, -, hovf⟩
    · exact kept hovf
    · refine ⟨fun _ _ => ⟨hpass, hnext⟩, fun hset hclear => ?_⟩
      rw [hclear, State.setSchedule_ovf, hset] at hovf
      cases hovf
  | command hsched _ hd hexec =>
    rcases exec_cases hexec with hshort | ⟨rfl, -, rfl⟩ | ⟨-, -, -, rfl⟩
    · rcases hshort.ovf with hovf | ⟨rfl, hzero⟩
      · exact kept hovf
      · exact ⟨fun _ hset => absurd_flag hset hzero, fun _ _ => .inl (commandNext_of_decode hsched hd)⟩
    · exact ⟨fun _ => nofun, fun _ _ => .inr (.inl (commandNext_of_decode hsched hd))⟩
    · exact kept rfl
  | pinReset hsched hlow =>
    exact ⟨fun _ hset => absurd_flag hset (pinReset_flags _).2.1, fun _ _ => .inr (.inr ⟨_, _, hsched, hlow⟩)⟩
  | quiet hquiet =>
    obtain ⟨_, _, _, _, _, _, _, rfl⟩ := hquiet.frame
    exact kept rfl

/-- Settles O52: the interrupt is a function of `IRQ_EN` and the queue; the sequencer only adds to the queue, and of the
commands POP_EVENT, CFG_WRITE and SOFT_RESET change either. -/
theorem interruptFollowsTheQueue : Obligations.InterruptFollowsTheQueue := by
  intro s t h
  have kept : ∀ {P Q : Prop}, t.cfg = s.cfg → t.evq = s.evq →
      (s.evtIrq = true → t.evtIrq = false → P) ∧ (s.evtIrq = false → t.evtIrq = true → Q) := fun hcfg hevq => by
    have hirq : t.evtIrq = s.evtIrq := by rw [evtIrq_eq, evtIrq_eq, hcfg, hevq]
    exact ⟨fun hset hclear => absurd_flag (hirq.trans hset) hclear, fun hclear hset => absurd_flag hset (hirq.trans hclear)⟩
  cases step_to h with
  | sequencer rest hnext =>
    refine ⟨fun hset hclear => ?_, fun _ _ => hnext.imp_right .inl⟩
    have hcfg : _ = s.cfg := (sequencerTurn_keeps (s.setSchedule rest)).2.1
    obtain ⟨es, hevq⟩ := sequencerTurn_evq (s.setSchedule rest)
    rw [evtIrq_eq, State.setSchedule_evq] at *
    simp_all
  | command hsched _ hd hexec =>
    rcases exec_cases hexec with hshort | ⟨rfl, -, rfl⟩ | ⟨-, -, -, rfl⟩
    · rcases hshort.cfg with hcfg | ⟨-, k, v, rfl, -⟩
      · rcases hshort.evq with hevq | ⟨rfl, hevq⟩
        · exact kept hcfg hevq
        · refine ⟨fun _ _ => .inl ⟨_, _, hsched, .inl hd⟩, fun hclear hset => ?_⟩
          rw [evtIrq_eq, hcfg, hevq] at hset
          rw [evtIrq_eq] at hclear
          cases hqueue : s.evq <;> simp_all
      · exact ⟨fun _ _ => .inl ⟨_, _, hsched, .inr (.inl ⟨k, v, hd⟩)⟩, fun _ _ => .inr (.inr ⟨_, _, k, v, hsched, hd⟩)⟩
    · exact ⟨fun _ _ => .inl ⟨_, _, hsched, .inr (.inr hd)⟩, fun _ => nofun⟩
    · exact kept rfl rfl
  | pinReset hsched hlow =>
    refine ⟨fun _ _ => .inr ⟨_, _, hsched, hlow⟩, fun _ hset => ?_⟩
    rw [evtIrq_eq, (pinReset_flags _).2.2] at hset
    simp at hset
  | quiet hquiet =>
    obtain ⟨_, _, _, _, _, _, _, rfl⟩ := hquiet.frame
    exact kept rfl rfl

/-- Settles O60: the pin reset holds CORE, a held CORE takes no command and moves no bus step, and of the turns only a clock
edge with `RST_n = 1` changes the hold. -/
theorem resetHoldsUntilTheClockEdge : Obligations.ResetHoldsUntilTheClockEdge := by
  refine ⟨fun s levels rest hsched hlow => ?_, fun s levels rest hsched hhigh => ?_, fun s rest hop hsched => ?_,
    fun s n rest hsched => ?_, fun s t hlow h hop hop' => ?_⟩
  · have hstep : step s = .next ((s.setSchedule rest).environmentTurn levels) := by simp only [step, hsched, takeTurn]
    rw [environmentTurn_of_rstN_low _ hlow] at hstep
    obtain ⟨hheld, hreset⟩ := pinReset_holds { s.setSchedule rest with inputs := levels }
    exact ⟨_, hstep, hheld, operating_of_held hheld, hreset⟩
  · have hstep : step s = .next ((s.setSchedule rest).environmentTurn levels) := by simp only [step, hsched, takeTurn]
    rwa [show (s.setSchedule rest).environmentTurn levels = _ from if_pos hhigh] at hstep
  · rcases hsched with hsched | ⟨w, hsched⟩
    · simp only [step, hsched, takeTurn, State.sequencerTurn]
      rw [if_neg (by rw [show (s.setSchedule rest).operating = false from hop]; nofun)]
      rfl
    · rw [step_write_cmd hsched, commandWrite, if_neg (by rw [show (s.setSchedule rest).operating = false from hop]; nofun)]
      rfl
  · have hstep : step s = .next ((s.setSchedule rest).clockTurn n) := by simp only [step, hsched, takeTurn]
    rw [hstep]
    rcases clockTurn_cases (s.setSchedule rest) n with ⟨hn, hhigh, hclock⟩ | ⟨hno, hclock⟩ <;> rw [hclock]
    · have hreleased : (s.resetHeld && (decide (n = 0) || !s.inputs.rstN)) = false := by
        simp [show s.inputs.rstN = true from hhigh, hn.ne']
      rw [hreleased]
      rfl
    · have hheld : (s.resetHeld && (decide (n = 0) || !s.inputs.rstN)) = s.resetHeld := by
        rcases hno with rfl | hlow
        · simp
        · simp [show s.inputs.rstN = false from hlow]
      rw [hheld]
      rfl
  · have hheld : s.resetHeld = true := held_of_not_operating hlow hop
    cases step_to h with
    | sequencer rest =>
      obtain ⟨-, -, -, hkept⟩ := sequencerTurn_keeps (s.setSchedule rest)
      exact absurd_flag hop' (operating_of_held (hkept.trans hheld))
    | command _ hop'' => exact absurd_flag hop'' hop
    | pinReset => exact absurd_flag hop' (operating_of_held (pinReset_holds _).1)
    | quiet hquiet =>
      cases hquiet with
      | ignored rest => exact absurd_flag hop' (operating_of_held hheld)
      | illegal rest hop'' => exact absurd_flag hop'' hop
      | read rest r => exact absurd_flag hop' (operating_of_held hheld)
      | levels rest levels => exact absurd_flag hop' (operating_of_held hheld)
      | clock n rest hsched =>
        rcases clockTurn_cases (s.setSchedule rest) n with ⟨hn, hhigh, -⟩ | ⟨-, hclock⟩
        · exact ⟨hhigh, n, rest, hsched, hn⟩
        · rw [hclock] at hop'
          exact absurd_flag hop' (operating_of_held hheld)
end

section
/-! PROOFS. The bus steps of the long commands: what the sequencer's step does for each (41_multiplexer.md,
42_serializer.md, 43_scanner.md), the order they come in, and the address changes with their settle wait. -/

namespace Sys2Proof.Machine

/-! ### One step of the sequencer, by the bus step it performs -/

section
variable {s : State} {rest : List BusStep}

theorem sequencerStep_setAddr {a : BitVec 3} (h : s.progress = .setAddr a :: rest) :
    sequencerStep s = { s with
      waitCount := 0, cycles := s.cycles + s.waitCount, progress := rest, pins := { s.pins with a := a }
      trace := (s.cycles + s.waitCount, .addr a) :: s.trace } := by
  rw [sequencerStep_waited h]
  rfl

theorem sequencerStep_wait {k : WaitKind} (h : s.progress = .wait k :: rest) :
    sequencerStep s = { s with waitCount := s.waitTime k, cycles := s.cycles + s.waitCount, progress := rest } := by
  rw [sequencerStep_waited h]
  cases k <;> rfl

theorem sequencerStep_complete (h : s.progress = .complete :: rest) :
    sequencerStep s = { s with
      waitCount := 0, cycles := s.cycles + s.waitCount, progress := [], busy := false, runop := 0 } := by
  rw [sequencerStep_waited h]
  rfl

theorem sequencerStep_snapshot (h : s.progress = .snapshot :: rest) :
    sequencerStep s = { s with
      waitCount := 0, cycles := s.cycles + s.waitCount, progress := rest, snap := s.fb } := by
  rw [sequencerStep_waited h]
  rfl

theorem sequencerStep_snapshotClear (h : s.progress = .snapshotClear :: rest) :
    sequencerStep s = { s with
      waitCount := 0, cycles := s.cycles + s.waitCount, progress := rest, snap := s.fb, raw := Grid.fill false } := by
  rw [sequencerStep_waited h]
  rfl

theorem sequencerStep_beginShift {src : RowSource} (h : s.progress = .beginShift src :: rest) :
    sequencerStep s = { s with
      waitCount := 0, cycles := s.cycles + s.waitCount, progress := rest, txbuf := s.rowFrom src, txpos := 0
      pins := { s.pins with lat := s.params.latIdle }
      trace := (s.cycles + s.waitCount, .lat s.params.latIdle) :: s.trace } := by
  rw [sequencerStep_waited h, State.perform, beginShiftStep_effect]
  cases src <;> rfl

theorem sequencerStep_latchOn (h : s.progress = .latchOn :: rest) :
    sequencerStep s = { s with
      waitCount := s.latchHold, cycles := s.cycles + s.waitCount, progress := rest
      pins := { s.pins with ser := false, lat := s.params.latPulse }
      board := { shifted := [], latched := s.txbuf }
      trace := (s.cycles + s.waitCount, .lat s.params.latPulse) :: (s.cycles + s.waitCount, .ser false) :: s.trace } := by
  rw [sequencerStep_waited h, State.perform, latchOnStep_effect]
  rfl

theorem sequencerStep_latchOff (h : s.progress = .latchOff :: rest) :
    sequencerStep s = { s with
      waitCount := 0, cycles := s.cycles + s.waitCount, progress := rest
      pins := { s.pins with lat := s.params.latIdle }
      trace := (s.cycles + s.waitCount, .lat s.params.latIdle) :: s.trace } := by
  rw [sequencerStep_waited h]
  rfl

theorem sequencerStep_probeSample {c : Fin 6} (h : s.progress = .probeSample c :: rest) :
    sequencerStep s = { s with
      waitCount := 0, cycles := s.cycles + s.waitCount, progress := rest, senseProbe := s.senses c
      trace := (s.cycles + s.waitCount, .sample c (s.lineLevel c)) :: s.trace } := by
  rw [sequencerStep_waited h]
  rfl

theorem sequencerStep_cellSample {c : Fin 6} {y x : Fin 12} (h : s.progress = .cellSample c y x :: rest) :
    sequencerStep s = { s with
      waitCount := 0, cycles := s.cycles + s.waitCount, progress := rest
      raw := if s.senses c then s.raw.setCell y x true else s.raw
      trace := (s.cycles + s.waitCount, .sample c (s.lineLevel c)) :: s.trace } := by
  rw [sequencerStep_waited h, State.perform, State.cellSampleStep]
  split
  next hsense =>
    rw [if_pos (by exact hsense)]
    rfl
  next hsense =>
    rw [if_neg (by exact hsense)]
    rfl

theorem sequencerStep_coarseSample {c : Fin 6} (h : s.progress = .coarseSample c :: rest) :
    sequencerStep s = { s with
      waitCount := 0, cycles := s.cycles + s.waitCount
      progress := if s.senses c then probeSteps c ++ rest else rest
      trace := (s.cycles + s.waitCount, .sample c (s.lineLevel c)) :: s.trace } := by
  rw [sequencerStep_waited h, State.perform, State.coarseSampleStep]
  split
  next hsense =>
    rw [if_pos (by exact hsense)]
    rfl
  next hsense =>
    rw [if_neg (by exact hsense)]
    rfl

end

/-! ### The order of the bus steps -/

/-- Bus steps that may stand before any that begin between two transfers. -/
def KeepsOrder (steps : List BusStep) : Prop :=
  ∀ rest, sequenced .idle rest = true → sequenced .idle (steps ++ rest) = true

theorem KeepsOrder.nil : KeepsOrder [] := fun _ h => h

theorem KeepsOrder.append {l l' : List BusStep} (h : KeepsOrder l) (h' : KeepsOrder l') : KeepsOrder (l ++ l') :=
  fun rest hrest => by
    rw [List.append_assoc]
    exact h _ (h' _ hrest)

theorem KeepsOrder.flatMap {α : Type} {f : α → List BusStep} (h : ∀ c, KeepsOrder (f c)) (cs : List α) :
    KeepsOrder (cs.flatMap f) := by
  induction cs with
  | nil => exact .nil
  | cons c cs ih => exact (h c).append ih

theorem keepsOrder_addrSteps (a : BitVec 3) : KeepsOrder (addrSteps a) := fun _ h => h

theorem keepsOrder_shiftSteps (src : RowSource) : KeepsOrder (shiftSteps src) := fun _ h => h

theorem keepsOrder_wait (k : WaitKind) : KeepsOrder [.wait k] := fun _ h => h

theorem keepsOrder_driveSteps (p : Params) (cfg : CfgRegs) (c : Fin 6) : KeepsOrder (driveSteps p cfg c) := by
  refine (((keepsOrder_addrSteps _).append (keepsOrder_shiftSteps _)).append (keepsOrder_wait _)).append ?_
  split
  · exact keepsOrder_shiftSteps _
  · exact .nil

theorem keepsOrder_cellSteps (c : Fin 6) (y x : Fin 12) : KeepsOrder (cellSteps c y x) :=
  (keepsOrder_shiftSteps _).append fun _ h => h

theorem keepsOrder_probeSteps (c : Fin 6) : KeepsOrder (probeSteps c) :=
  .flatMap (fun y => .flatMap (fun x => keepsOrder_cellSteps c y x) _) _

theorem keepsOrder_senseSteps (cfg : CfgRegs) (c : Fin 6) : KeepsOrder (senseSteps cfg c) := by
  refine (keepsOrder_addrSteps 0).append ?_
  split
  · exact (keepsOrder_shiftSteps _).append fun _ h => h
  · exact keepsOrder_probeSteps c

/-- The bus steps of every long command come in the order of its pseudocode. -/
theorem sequenced_longSteps {i : Instr} (hlong : i.isLong = true) (p : Params) (cfg : CfgRegs) :
    sequenced .idle (longSteps p cfg i) = true := by
  cases i
  case select | setAddr => exact keepsOrder_addrSteps _ [.complete] rfl
  case sendRow | sendBlank => exact keepsOrder_shiftSteps _ [.complete] rfl
  case probe => exact keepsOrder_shiftSteps _ [.probeSample _, .complete] rfl
  case draw =>
    have hsnapshot : KeepsOrder [.snapshot] := fun _ h => h
    exact ((hsnapshot.append (.flatMap (keepsOrder_driveSteps p cfg) _)).append (keepsOrder_addrSteps 0)) [.complete] rfl
  case scan =>
    have hsnapshot : KeepsOrder [.snapshotClear] := fun _ h => h
    exact (hsnapshot.append (.flatMap (fun c => (keepsOrder_driveSteps p cfg c).append (keepsOrder_senseSteps cfg c)) _))
      [.debouncePass, .complete] rfl
  all_goals cases hlong

/-- A `SetAddr` in its place is followed by the settle wait. -/
theorem sequenced_setAddr {a : BitVec 3} {rest : List BusStep} (h : sequenced .idle (.setAddr a :: rest) = true) :
    ∃ rest', rest = .wait .settle :: rest' ∧ sequenced .idle rest' = true := by
  match rest with
  | .wait .settle :: rest' => exact ⟨rest', rfl, h⟩

/-- What a bus step shows is stamped no earlier than the time at which it begins. -/
theorem perform_trace (s : State) (b : BusStep) :
    ∃ es, (s.perform b).trace = es ++ s.trace ∧ ∀ e ∈ es, s.cycles ≤ e.1 := by
  cases b with
  | setAddr a => exact ⟨[_], rfl, by simp⟩
  | beginShift src => exact ⟨[_], rfl, by simp⟩
  | shiftBit =>
    rw [State.perform]
    rcases shiftBitStep_cases s with ⟨-, hstep⟩ | ⟨-, -, hstep⟩ | ⟨_, -, hstep⟩ <;> rw [hstep]
    · exact ⟨[], rfl, nofun⟩
    · rw [transportFault_all]
      exact ⟨[_, _, _, _], rfl, by simp⟩
    · rw [sendBit_effect]
      exact ⟨[_, _, _], rfl, by simp⟩
  | latchOn => exact ⟨[_, _], rfl, by simp⟩
  | latchOff => exact ⟨[_], rfl, by simp⟩
  | probeSample c => exact ⟨[_], rfl, by simp⟩
  | cellSample c y x =>
    rw [State.perform, State.cellSampleStep]
    split <;> exact ⟨[_], rfl, by simp⟩
  | coarseSample c =>
    rw [State.perform, State.coarseSampleStep]
    split <;> exact ⟨[_], rfl, by simp⟩
  | debouncePass =>
    obtain ⟨_, _, _, _, _, hpass⟩ := debouncePass_frame s
    rw [State.perform, hpass]
    exact ⟨[], rfl, nofun⟩
  | wait | snapshot | snapshotClear | complete => exact ⟨[], rfl, nofun⟩

theorem sequencerStep_trace (s : State) :
    ∃ es, (sequencerStep s).trace = es ++ s.trace ∧ ∀ e ∈ es, s.cycles + s.waitCount ≤ e.1 := by
  cases hprog : s.progress with
  | nil => exact ⟨[], by rw [sequencerStep_idle hprog]; rfl, nofun⟩
  | cons b rest =>
    rw [sequencerStep_waited hprog]
    exact perform_trace { s with waitCount := 0, cycles := s.cycles + s.waitCount, progress := rest } b

/-! ### Which codes the lines are driven to -/

theorem setAddr_not_mem_shiftSteps (a : BitVec 3) (src : RowSource) : .setAddr a ∉ shiftSteps src := by
  simp [shiftSteps]

theorem setAddr_not_mem_probeSteps (a : BitVec 3) (c : Fin 6) : .setAddr a ∉ probeSteps c := by
  simp [probeSteps, cellSteps, setAddr_not_mem_shiftSteps]

/-- The channels' codes and the deselected code are the only ones the cycles drive. -/
theorem mem_driveSteps {p : Params} {cfg : CfgRegs} {c : Fin 6} {a : BitVec 3} (h : .setAddr a ∈ driveSteps p cfg c) :
    a = p.chAddr[c.val] := by
  unfold driveSteps at h
  split at h <;> simpa [addrSteps, setAddr_not_mem_shiftSteps] using h

theorem mem_senseSteps {cfg : CfgRegs} {c : Fin 6} {a : BitVec 3} (h : .setAddr a ∈ senseSteps cfg c) : a = 0 := by
  unfold senseSteps at h
  split at h <;> simpa [addrSteps, setAddr_not_mem_shiftSteps, setAddr_not_mem_probeSteps] using h

/-- With legal codes only SETADDR has a bus step that drives `111` (41_multiplexer.md R148). -/
theorem allHigh_not_mem_longSteps {p : Params} (hlegal : p.chAddrLegal = true) (cfg : CfgRegs) {i : Instr}
    (hi : i.op ≠ 7) : .setAddr 7 ∉ longSteps p cfg i := by
  have hdrive : ∀ c, .setAddr 7#3 ∉ driveSteps p cfg c := fun c hmem =>
    (chAddr_ne_zero_and_ne_seven hlegal c.isLt).2 (mem_driveSteps hmem).symm
  have hsense : ∀ c, .setAddr 7#3 ∉ senseSteps cfg c := fun c hmem => absurd (mem_senseSteps hmem) (by decide)
  cases i
  case select ch => simpa [longSteps, selectSteps, addrSteps] using (resolve_ne_seven hlegal ch).symm
  case setAddr => exact absurd rfl hi
  case draw => simp [longSteps, drawSteps, addrSteps, hdrive]
  case scan => simp [longSteps, scanSteps, hdrive, hsense]
  all_goals simp [longSteps, sendSteps, probeCommandSteps, setAddr_not_mem_shiftSteps]

/-- What a bus step can make of the address lines: they stay, are deselected, or take the code it drives. -/
theorem perform_address (s : State) (b : BusStep) :
    (s.perform b).pins.a = s.pins.a ∨ (s.perform b).pins.a = 0 ∨ b = .setAddr (s.perform b).pins.a := by
  cases b with
  | setAddr a => exact .inr (.inr rfl)
  | shiftBit =>
    rw [State.perform]
    rcases shiftBitStep_cases s with ⟨-, hstep⟩ | ⟨-, -, hstep⟩ | ⟨_, -, hstep⟩ <;> rw [hstep]
    · exact .inl rfl
    · rw [transportFault_all]
      exact .inr (.inl rfl)
    · rw [sendBit_effect]
      exact .inl rfl
  | cellSample c y x =>
    rw [State.perform, State.cellSampleStep]
    split <;> exact .inl rfl
  | coarseSample c =>
    rw [State.perform, State.coarseSampleStep]
    split <;> exact .inl rfl
  | debouncePass =>
    obtain ⟨_, _, _, _, _, hpass⟩ := debouncePass_frame s
    rw [State.perform, hpass]
    exact .inl rfl
  | _ => exact .inl rfl

/-- What a bus step leaves to do: what was left, with the bits or the probes it puts before, or nothing. -/
theorem perform_progress (s : State) (b : BusStep) :
    (s.perform b).progress = [] ∨
    ((s.perform b).runop = s.runop ∧ ∀ a, .setAddr a ∈ (s.perform b).progress → .setAddr a ∈ s.progress) := by
  cases b with
  | shiftBit =>
    rw [State.perform]
    rcases shiftBitStep_cases s with ⟨-, hstep⟩ | ⟨-, -, hstep⟩ | ⟨_, -, hstep⟩ <;> rw [hstep]
    · exact .inr ⟨rfl, fun _ hmem => hmem⟩
    · rw [transportFault_all]
      exact .inl rfl
    · rw [sendBit_effect]
      refine .inr ⟨rfl, fun a => ?_⟩
      simp only
      split <;> simp
  | cellSample c y x =>
    rw [State.perform, State.cellSampleStep]
    split <;> exact .inr ⟨rfl, fun _ hmem => hmem⟩
  | coarseSample c =>
    rw [State.perform, State.coarseSampleStep]
    split
    · refine .inr ⟨rfl, fun a hmem => ?_⟩
      exact (List.mem_append.mp hmem).resolve_left (setAddr_not_mem_probeSteps a c)
    · exact .inr ⟨rfl, fun _ hmem => hmem⟩
  | debouncePass =>
    obtain ⟨_, _, _, _, _, hpass⟩ := debouncePass_frame s
    rw [State.perform, hpass]
    exact .inr ⟨rfl, fun _ hmem => hmem⟩
  | complete => exact .inl rfl
  | latchOn =>
    rw [State.perform, latchOnStep_effect]
    exact .inr ⟨rfl, fun _ hmem => hmem⟩
  | _ => exact .inr ⟨rfl, fun _ hmem => hmem⟩

/-- What the sequencer's turn can make of the lines and of the bus steps to come. -/
theorem sequencerTurn_address (s : State) :
    (s.sequencerTurn.pins.a = s.pins.a ∨ s.sequencerTurn.pins.a = 0 ∨
      .setAddr s.sequencerTurn.pins.a ∈ s.progress) ∧
    (s.sequencerTurn.progress = [] ∨ (s.sequencerTurn.runop = s.runop ∧
      ∀ a, .setAddr a ∈ s.sequencerTurn.progress → .setAddr a ∈ s.progress)) := by
  rcases sequencerTurn_cases s with hturn | ⟨-, b, rest, hprog, hturn⟩
  · rw [hturn]
    exact ⟨.inl rfl, .inr ⟨rfl, fun _ hmem => hmem⟩⟩
  · have haddr := perform_address ((s.countDown s.waitCount).setProgress rest) b
    have hsteps := perform_progress ((s.countDown s.waitCount).setProgress rest) b
    rw [← hturn] at haddr hsteps
    rw [hprog]
    constructor
    · exact haddr.imp_right (.imp_right fun hb => List.mem_cons.mpr (.inl hb.symm))
    · exact hsteps.imp_right fun ⟨hrunop, hsub⟩ => ⟨hrunop, fun a hmem => List.mem_cons.mpr (.inr (hsub a hmem))⟩

/-! ### SELECT and SETADDR -/

theorem runSequencer_one (s : State) : runSequencer 1 s = sequencerStep s := rfl

theorem runSequencer_succ (n : Nat) (s : State) : runSequencer (n + 1) s = runSequencer n (sequencerStep s) := rfl

/-- The run of SELECT and SETADDR: the code is driven, the settle time is counted, the command is complete. -/
theorem selectSteps_run {s : State} {a : BitVec 3} (h : s.progress = selectSteps a) :
    runSequencer 1 s = { s with
      waitCount := 0, cycles := s.cycles + s.waitCount, progress := [.wait .settle, .complete]
      pins := { s.pins with a := a }, trace := (s.cycles + s.waitCount, .addr a) :: s.trace } ∧
    runSequencer 2 s = { s with
      waitCount := s.settleTime, cycles := s.cycles + s.waitCount, progress := [.complete]
      pins := { s.pins with a := a }, trace := (s.cycles + s.waitCount, .addr a) :: s.trace } ∧
    runSequencer 3 s = { s with
      waitCount := 0, cycles := s.cycles + s.waitCount + s.settleTime, progress := [], busy := false, runop := 0
      pins := { s.pins with a := a }, trace := (s.cycles + s.waitCount, .addr a) :: s.trace } := by
  have h1 := sequencerStep_setAddr h
  refine ⟨h1, ?_, ?_⟩
  · rw [runSequencer_succ, h1, runSequencer_one, sequencerStep_wait (k := .settle) (rest := [.complete]) (by rfl)]
    rfl
  · rw [runSequencer_succ, h1, runSequencer_succ, sequencerStep_wait (k := .settle) (rest := [.complete]) (by rfl)]
    rw [runSequencer_one, sequencerStep_complete (rest := []) (by rfl)]
    rfl

/-! ### WAIT_IDLE -/

theorem statusIdle_statusWord (s : State) : statusIdle s.statusWord = !s.busy := by
  rw [statusIdle, (statusWord_bits s).1]

/-- What the sequencer makes of a state between two reads of STATUS, CORE operating. -/
theorem sequencerTurn_hostRead {s : State} (hop : s.operating = true) :
    (s.hostRead .status).sequencerTurn = sequencerStep (s.hostRead .status) := if_pos hop

theorem waitIdle_busy {s : State} (hop : s.operating = true) (hbusy : s.busy = true) (n : Nat) :
    waitIdle (n + 1) s = waitIdle n (sequencerStep (s.hostRead .status)) := by
  rw [waitIdle, statusIdle_statusWord, hbusy, sequencerTurn_hostRead hop]
  rfl

theorem waitIdle_idle {s : State} (hidle : s.busy = false) (n : Nat) :
    waitIdle (n + 1) s = some (s.hostRead .status) := by
  rw [waitIdle, statusIdle_statusWord, hidle]
  rfl

/-- With the bus steps of SELECT to come, the fourth read of STATUS shows `BUSY = 0`. -/
theorem waitIdle_selectSteps {s : State} {a : BitVec 3} (hop : s.operating = true) (hbusy : s.busy = true)
    (h : s.progress = selectSteps a) : ∃ u, waitIdle 4 s = some u ∧ u.busy = false ∧ u.pins.a = a := by
  have h1 := sequencerStep_setAddr (s := s.hostRead .status) h
  rw [waitIdle_busy hop hbusy]
  generalize sequencerStep (s.hostRead .status) = s₁ at h1 ⊢
  have hop₁ : s₁.operating = true := by rwa [h1]
  have hbusy₁ : s₁.busy = true := by rwa [h1]
  have haddr₁ : s₁.pins.a = a := by rw [h1]
  have h2 := sequencerStep_wait (s := s₁.hostRead .status) (k := .settle) (rest := [.complete]) (by rw [h1]; rfl)
  rw [waitIdle_busy hop₁ hbusy₁]
  generalize sequencerStep (s₁.hostRead .status) = s₂ at h2 ⊢
  have hop₂ : s₂.operating = true := by rwa [h2]
  have hbusy₂ : s₂.busy = true := by rwa [h2]
  have haddr₂ : s₂.pins.a = a := by rwa [h2]
  have h3 := sequencerStep_complete (s := s₂.hostRead .status) (rest := []) (by rw [h2]; rfl)
  rw [waitIdle_busy hop₂ hbusy₂]
  generalize sequencerStep (s₂.hostRead .status) = s₃ at h3 ⊢
  have hidle : s₃.busy = false := by rw [h3]
  exact ⟨_, waitIdle_idle hidle 0, hidle, by rw [h3]; exact haddr₂⟩

end Sys2Proof.Machine

open Sys2Proof Sys2Proof.Machine

/-- Settles O22: the accepted command has the bus steps of `selectSteps` for its code. -/
theorem selectAndSetAddrDriveAndSettle : Obligations.SelectAndSetAddrDriveAndSettle := by
  intro s hbusy hfault i a hi
  have hsteps : i.isLong = true ∧ i.inRange = true ∧ longSteps s.params s.cfg i = selectSteps a := by
    rcases hi with ⟨c, rfl, rfl⟩ | ⟨ch, hch, rfl, rfl⟩ | rfl
    · exact ⟨rfl, rfl, congrArg selectSteps (resolve_ofNat s.params c)⟩
    · exact ⟨rfl, rfl, congrArg selectSteps (resolve_of_ge s.params hch)⟩
    · exact ⟨rfl, rfl, rfl⟩
  obtain ⟨hlong, hrange, hsteps⟩ := hsteps
  obtain ⟨h1, h2, h3⟩ := selectSteps_run (s := (s.setErr .ok).startLong i.op (longSteps s.params s.cfg i)) hsteps
  refine ⟨_, exec_long_accepted hlong hbusy hfault hrange, rfl, ?_, ?_, ?_, h3⟩
  · rw [h1]
    rfl
  · rw [h1]
    rfl
  · rw [h2]
    rfl

/-- Settles O23: the order is that of `sequenced`, and the step after the wait begins when the settle time is over. -/
theorem settleFollowsEveryAddressChange : Obligations.SettleFollowsEveryAddressChange := by
  refine ⟨fun s t i hlong _ hexec herr => ?_, keepsOrder_probeSteps, fun s a rest hprog horder => ?_⟩
  · rcases exec_long_cases hlong hexec with ⟨e, he, rfl⟩ | ⟨-, -, rfl⟩
    · exact absurd herr he
    · exact sequenced_longSteps hlong s.params s.cfg
  · rw [hprog] at horder
    obtain ⟨rest', rfl, -⟩ := sequenced_setAddr horder
    have h1 := sequencerStep_setAddr hprog
    have h2 := sequencerStep_wait (s := sequencerStep s) (k := .settle) (rest := rest') (by rw [h1])
    obtain ⟨es, htrace, hlate⟩ := sequencerStep_trace (sequencerStep (sequencerStep s))
    refine ⟨rest', rfl, ?_, ?_, ?_, fun e he => ?_⟩
    · show (sequencerStep s).trace = ((sequencerStep s).cycles, _) :: _
      rw [h1]
    · show (sequencerStep (sequencerStep s)).trace = (sequencerStep s).trace
      rw [h2, h1]
    · show (sequencerStep (sequencerStep s)).pins = (sequencerStep s).pins
      rw [h2, h1]
    · have hmem : e ∈ es ++ (sequencerStep (sequencerStep s)).trace := htrace ▸ he
      refine (List.mem_append.mp hmem).symm.imp_right fun hes => ?_
      have hwait := hlate e hes
      rw [h2, h1] at hwait
      show (sequencerStep s).cycles + s.settleTime ≤ e.1
      rw [h1]
      exact hwait

/-- Settles O24: a bus step drives the code it holds or deselects, and a long command other than SETADDR holds legal
codes only. -/
theorem allHighIsReachedOnlyBySetAddr : Obligations.AllHighIsReachedOnlyBySetAddr := by
  intro s t hlegal h hprog
  have kept : t.runop = s.runop → t.progress = s.progress → t.pins.a = s.pins.a →
      (t.runop ≠ 7 → .setAddr 7 ∉ t.progress) ∧ (t.pins.a = 7 → s.pins.a = 7 ∨ s.runop = 7) := fun hrunop hsteps haddr =>
    ⟨by rwa [hrunop, hsteps], fun hseven => .inl (haddr ▸ hseven)⟩
  have reset : t.progress = [] → t.pins.a = 0 →
      (t.runop ≠ 7 → .setAddr 7 ∉ t.progress) ∧ (t.pins.a = 7 → s.pins.a = 7 ∨ s.runop = 7) := fun hsteps haddr =>
    ⟨fun _ => by simp [hsteps], fun hseven => absurd (haddr.symm.trans hseven) (by decide)⟩
  cases step_to h with
  | sequencer rest =>
    obtain ⟨haddr, hsteps⟩ := sequencerTurn_address (s.setSchedule rest)
    constructor
    · intro hrunop
      rcases hsteps with hnone | ⟨hsame, hsub⟩
      · simp [hnone]
      · exact fun hmem => hprog (hsame ▸ hrunop) (hsub 7 hmem)
    · intro hseven
      rw [hseven] at haddr
      rcases haddr with hsame | hzero | hmem
      · exact .inl hsame.symm
      · exact absurd hzero (by decide)
      · exact .inr (not_imp_comm.mp hprog fun hno => hno hmem)
  | command _ _ _ hexec =>
    rcases exec_cases hexec with hshort | ⟨-, -, rfl⟩ | ⟨-, -, -, rfl⟩
    · obtain ⟨_, _, _, _, _, _, _, _, rfl⟩ := hshort.frame
      exact kept rfl rfl rfl
    · exact reset rfl rfl
    · exact ⟨fun hop => allHigh_not_mem_longSteps hlegal s.cfg hop, .inl⟩
  | pinReset =>
    have hreset := (pinReset_holds { s.setSchedule ‹_› with inputs := ‹_› }).2
    exact reset (by rw [← hreset]; rfl) (by rw [← hreset]; rfl)
  | quiet hquiet =>
    obtain ⟨_, _, _, _, _, _, _, rfl⟩ := hquiet.frame
    exact kept rfl rfl rfl

/-- Settles O59: the fourth read of STATUS comes after the three sequencer steps of SELECT. -/
theorem waitIdleEndsAfterSelect : Obligations.WaitIdleEndsAfterSelect := by
  intro s t ch hbusy hfault hop hexec
  rw [exec_long_accepted rfl hbusy hfault rfl] at hexec
  obtain rfl := Host.Outcome.next.inj hexec
  exact waitIdle_selectSteps hop rfl rfl
end

section
/-! PROOFS. The invariant of CORE between two steps (Sys2Proof/Safety.lean): each agent's turn, each command and each bus
step keeps it. -/

namespace Sys2Proof.Machine

/-! ### The order of the bus steps, read off one step at a time -/

/-- The phase of a transfer in which a bus step has its place. -/
def BusStep.before : BusStep → TransferPhase
  | .shiftBit => .shifting
  | .latchOn => .latching
  | .latchOff => .pulsing
  | _ => .idle

/-- The phase of a transfer once a bus step has done its work. -/
def BusStep.after : BusStep → TransferPhase
  | .beginShift _ => .shifting
  | .shiftBit => .latching
  | .latchOn => .pulsing
  | _ => .idle

/-- A bus step in its place begins in its own phase and leads to the phase of the rest; only the completion is last. -/
theorem sequenced_cons {ph : TransferPhase} {b : BusStep} {rest : List BusStep} (h : sequenced ph (b :: rest) = true) :
    ph = b.before ∧ (b = .complete ∧ rest = [] ∨ b ≠ .complete ∧ sequenced b.after rest = true) := by
  cases b with
  | setAddr a =>
    cases ph with
    | idle =>
      obtain ⟨rest', rfl, hrest⟩ := sequenced_setAddr h
      exact ⟨rfl, .inr ⟨nofun, hrest⟩⟩
    | _ => cases h
  | complete =>
    cases ph with
    | idle =>
      cases rest with
      | nil => exact ⟨rfl, .inl ⟨rfl, rfl⟩⟩
      | cons => cases h
    | _ => cases h
  | _ => cases ph <;> simp_all [sequenced, BusStep.before, BusStep.after]

/-! ### What keeps the invariant -/

/-- A CORE at its reset values meets the invariant. -/
theorem State.Inv.of_resetCore {s : State} (hreset : s.resetCore = s) (hlow : s.inputs.rstN = false → s.resetHeld = true) :
    s.Inv where
  running hbusy := absurd_flag hbusy (congrArg State.busy hreset.symm)
  resting _ := by
    rw [← hreset]
    exact ⟨rfl, rfl, rfl, rfl, rfl⟩
  clockLow := by
    rw [← hreset]
    rfl
  faultIdle _ := congrArg State.busy hreset.symm
  queueBound := by
    rw [← hreset]
    exact Nat.zero_le _
  threshold := by
    rw [← hreset]
    exact show (4 : Byte) ≠ 0 by decide
  fbForm := by
    rw [← hreset]
    exact wf_nil _
  snapForm := by
    rw [← hreset]
    exact wf_nil _
  heldLow := hlow
  heldReset _ := hreset

/-- The states that differ from `s` in nothing a long command in progress uses but the wait counter. -/
inductive OutsideFrame (s : State) : State → Prop
  | intro {r e sl tr o cfg evq fb turns w c held levels} : OutsideFrame s { s with
      result := r, err := e, senseLines := sl, trace := tr, ovf := o, cfg := cfg, evq := evq, fb := fb
      schedule := turns, waitCount := w, cycles := c, resetHeld := held, inputs := levels }

section
variable {s : State} (h : s.Inv)
include h

/-- What leaves the command in progress alone keeps the invariant, if it keeps the clauses about what it changes. -/
theorem State.Inv.of_outside {t : State} (hframe : OutsideFrame s t)
    (hwait : s.waitCount = 0 → t.waitCount = 0) (hevq : t.evq.length ≤ s.evq.length) (hcfg : t.cfg.debThresh ≠ 0)
    (hfb : t.fb.wf s.params.offByte = true) (hlow : t.inputs.rstN = false → t.resetHeld = true)
    (hheld : t.resetHeld = true → t.resetCore = t) : t.Inv := by
  cases hframe
  exact {
    running := h.running
    resting := fun hbusy =>
      have ⟨hprog, hrunop, hcount, hpins⟩ := h.resting hbusy
      ⟨hprog, hrunop, hwait hcount, hpins⟩
    clockLow := h.clockLow
    faultIdle := h.faultIdle
    queueBound := hevq.trans h.queueBound
    threshold := hcfg
    fbForm := hfb
    snapForm := h.snapForm
    heldLow := hlow
    heldReset := hheld }

theorem State.Inv.setSchedule (rest : List Turn) : (s.setSchedule rest).Inv :=
  h.of_outside .intro (fun hw => hw) le_rfl h.threshold h.fbForm h.heldLow
    fun hheld => congrArg (State.setSchedule · rest) (h.heldReset hheld)

end

/-- A CORE that operates is not held in reset, so nothing is asked of its reset values. -/
theorem not_held_of_operating {s : State} (hop : s.operating = true) : s.resetHeld = false ∧ s.inputs.rstN = true := by
  simpa [State.operating, and_comm] using hop

/-- Time that passes for a held CORE counts down no wait: it has none. -/
theorem resetCore_countDown {s : State} (hreset : s.resetCore = s) (n : Nat) :
    (s.countDown n).resetCore = s.countDown n := by
  have hwait : 0 = s.waitCount := congrArg State.waitCount hreset
  calc (s.countDown n).resetCore = s.resetCore.countDown n := by
        simp [State.resetCore, State.resetWith, State.countDown]
    _ = s.countDown n := by rw [hreset]

theorem QuietTurn.keeps_inv {s t : State} (h : s.Inv) (hquiet : QuietTurn s t) : t.Inv := by
  cases hquiet with
  | ignored rest => exact h.setSchedule rest
  | illegal rest hop =>
    obtain ⟨hheld, hhigh⟩ := not_held_of_operating hop
    exact h.of_outside .intro (fun hw => hw) le_rfl h.threshold h.fbForm h.heldLow
      fun hheld' => absurd_flag hheld' hheld
  | read rest r =>
    exact h.of_outside .intro (fun hw => hw) le_rfl h.threshold h.fbForm h.heldLow
      fun hheld => congrArg (fun u : State => { u.setSchedule rest with trace := ((s.setSchedule rest).hostRead r).trace })
        (h.heldReset hheld)
  | levels rest levels hhigh =>
    exact h.of_outside .intro (fun hw => hw) le_rfl h.threshold h.fbForm
      (fun hlow => absurd_flag hhigh hlow)
      fun hheld => congrArg (fun u : State => { u.setSchedule rest with inputs := levels }) (h.heldReset hheld)
  | clock n rest =>
    have hwait : (s.setSchedule rest).waitCount = 0 → s.waitCount - n = 0 := fun hzero => by
      rw [show s.waitCount = 0 from hzero, Nat.zero_sub]
    rcases clockTurn_cases (s.setSchedule rest) n with ⟨-, hhigh, hclock⟩ | ⟨-, hclock⟩ <;> rw [hclock]
    · exact (h.setSchedule rest).of_outside .intro hwait le_rfl h.threshold h.fbForm
        (fun hlow => absurd_flag hhigh hlow) nofun
    · exact (h.setSchedule rest).of_outside .intro hwait le_rfl h.threshold h.fbForm
        h.heldLow fun hheld => resetCore_countDown ((h.setSchedule rest).heldReset hheld) n

/-- CFG_WRITE stores no threshold of 0 (45_system.md R228). -/
theorem threshold_write {c : CfgRegs} (h : c.debThresh ≠ 0) (idx : BitVec 8) (value : Half) :
    (c.write idx value).debThresh ≠ 0 := by
  unfold CfgRegs.write
  split
  case h_4 =>
    show (if value.extractLsb' 0 8 = 0 then 1 else value.extractLsb' 0 8) ≠ 0
    split
    · decide
    · assumption
  all_goals exact h

/-- A command an operating CORE runs keeps the invariant. -/
theorem exec_keeps_inv {s t : State} {i : Instr} (h : s.Inv) (hop : s.operating = true) (hexec : exec i s = .next t) :
    t.Inv := by
  obtain ⟨hheld, hhigh⟩ := not_held_of_operating hop
  rcases exec_cases hexec with hshort | ⟨-, -, rfl⟩ | ⟨hlong, hbusy, hfault, rfl⟩
  · have hevq : t.evq.length ≤ s.evq.length := by
      rcases hshort.evq with hevq | ⟨-, hevq⟩ <;> simp [hevq]
    have hcfg : t.cfg.debThresh ≠ 0 := by
      rcases hshort.cfg with hcfg | ⟨-, k, v, -, hcfg⟩ <;> rw [hcfg]
      · exact h.threshold
      · exact threshold_write h.threshold k v
    have hfb := hshort.fbForm h.fbForm
    obtain ⟨_, _, _, _, _, _, _, _, rfl⟩ := hshort.frame
    exact h.of_outside .intro (fun hw => hw) hevq hcfg hfb h.heldLow
      fun hheld' => absurd_flag hheld' hheld
  · exact .of_resetCore rfl h.heldLow
  · obtain ⟨-, -, -, hser, hlat⟩ := h.resting hbusy
    exact {
      running := fun _ => ⟨.idle, sequenced_longSteps hlong s.params s.cfg, hser, hlat⟩
      resting := nofun
      clockLow := h.clockLow
      faultIdle := fun hset => absurd_flag hset hfault
      queueBound := h.queueBound
      threshold := h.threshold
      fbForm := h.fbForm
      snapForm := h.snapForm
      heldLow := h.heldLow
      heldReset := fun hheld' => absurd_flag hheld' hheld }

/-! ### The bus steps -/

/-- What a bus step can change while its command goes on. -/
inductive RunningFrame (s : State) : State → Prop
  | intro {w c steps pins tr row pos board raw prev cnt st q o snap probe} : RunningFrame s { s with
      waitCount := w, cycles := c, progress := steps, pins := pins, trace := tr, txbuf := row, txpos := pos
      board := board, raw := raw, prev := prev, cnt := cnt, stable := st, evq := q, ovf := o, snap := snap
      senseProbe := probe }

/-- What the bus step that ends a command, complete or aborted, can change. -/
inductive StoppedFrame (s : State) : State → Prop
  | intro {c pins tr board f d} : StoppedFrame s { s with
      fault := f, busy := false, runop := 0, progress := [], waitCount := 0, pins := pins, board := board
      freeDraws := d, cycles := c, trace := tr }

/-- The debounce pass queues no more events than there is room for (44_debounce.md R204). -/
theorem debouncePass_evq_length {s : State} (h : s.evq.length ≤ s.params.evqDepth) :
    s.debouncePass.evq.length ≤ s.params.evqDepth := by
  obtain ⟨hqueue, -⟩ : Queued s s.debouncePass s.passEvents := debounceCells_queued allCells_nodup s
  rw [hqueue, List.length_append, List.length_take]
  omega

section
variable {s : State} (h : s.Inv) (hheld : s.resetHeld = false)
include h hheld

/-- A bus step after which the command goes on keeps the invariant, if the pins, the position and the steps to come are
those of one phase. -/
theorem State.Inv.of_running {t : State} (hbusy : s.busy = true) (hframe : RunningFrame s t)
    (ph : TransferPhase) (horder : sequenced ph t.progress = true) (hpins : t.phasePins ph) (hsck : t.pins.sck = false)
    (hevq : t.evq.length ≤ s.params.evqDepth) (hsnap : t.snap.wf s.params.offByte = true) : t.Inv := by
  cases hframe
  exact {
    running := fun _ => ⟨ph, horder, hpins⟩
    resting := fun hidle => absurd_flag hbusy hidle
    clockLow := hsck
    faultIdle := h.faultIdle
    queueBound := hevq
    threshold := h.threshold
    fbForm := h.fbForm
    snapForm := hsnap
    heldLow := h.heldLow
    heldReset := fun hheld' => absurd_flag hheld' hheld }

/-- A bus step that ends the command keeps the invariant, if it leaves the bus idle. -/
theorem State.Inv.of_stopped {t : State} (hframe : StoppedFrame s t)
    (hidle : t.pins.ser = false ∧ t.pins.lat = s.params.latIdle) (hsck : t.pins.sck = false) : t.Inv := by
  cases hframe
  exact {
    running := nofun
    resting := fun _ => ⟨rfl, rfl, rfl, hidle⟩
    clockLow := hsck
    faultIdle := fun _ => rfl
    queueBound := h.queueBound
    threshold := h.threshold
    fbForm := h.fbForm
    snapForm := h.snapForm
    heldLow := h.heldLow
    heldReset := fun hheld' => absurd_flag hheld' hheld }

/-- A bit step sends the next bit of its byte, or aborts the command. -/
theorem shiftBit_keeps_inv {rest : List BusStep} (hbusy : s.busy = true) (hprog : s.progress = .shiftBit :: rest)
    (horder : sequenced .latching rest = true) (hpos : s.txpos.val < 72) (hlat : s.pins.lat = s.params.latIdle) :
    (sequencerStep s).Inv := by
  cases hsampled : s.faultSampled with
  | true =>
    rw [sequencerStep_aborts_transfer hprog hpos hsampled]
    exact h.of_stopped hheld .intro ⟨rfl, rfl⟩ rfl
  | false =>
    rw [sequencerStep_sends_bit hprog hpos hsampled]
    refine h.of_running hheld hbusy .intro
      (if s.txpos.val = 71 then .latching else .shifting) ?_ ?_ rfl h.queueBound h.snapForm
    · show sequenced _ (if s.txpos.val = 71 then rest else s.progress) = true
      split
      · exact horder
      · rw [hprog]
        exact horder
    · split
      · exact ⟨by simp_all, hlat⟩
      · exact ⟨show s.txpos.val + 1 < 72 by omega, hlat⟩

theorem debouncePass_keeps_inv {rest : List BusStep} (hbusy : s.busy = true) (horder : sequenced .idle rest = true)
    (hpins : s.phasePins .idle) :
    (State.perform { s with waitCount := 0, cycles := s.cycles + s.waitCount, progress := rest } .debouncePass).Inv := by
  have hevq := debouncePass_evq_length
    (s := { s with waitCount := 0, cycles := s.cycles + s.waitCount, progress := rest }) h.queueBound
  obtain ⟨_, _, _, _, _, hpass⟩ := debouncePass_frame
    { s with waitCount := 0, cycles := s.cycles + s.waitCount, progress := rest }
  rw [hpass] at hevq
  rw [State.perform, hpass]
  exact h.of_running hheld hbusy .intro .idle horder hpins h.clockLow hevq h.snapForm

theorem sequencerStep_keeps_inv : (sequencerStep s).Inv := by
  cases hprog : s.progress with
  | nil => rwa [sequencerStep_idle hprog]
  | cons b rest =>
    have hbusy : s.busy = true := by
      by_contra hidle
      obtain ⟨hnone, -⟩ := h.resting (eq_false_of_ne_true hidle)
      rw [hprog] at hnone
      cases hnone
    obtain ⟨ph, hseq, hpins⟩ := h.running hbusy
    rw [hprog] at hseq
    obtain ⟨rfl, ⟨rfl, rfl⟩ | ⟨hb, horder⟩⟩ := sequenced_cons hseq
    · rw [sequencerStep_complete hprog]
      exact h.of_stopped hheld .intro hpins h.clockLow
    · cases b with
      | complete => exact absurd rfl hb
      | shiftBit => exact shiftBit_keeps_inv h hheld hbusy hprog horder hpins.1 hpins.2
      | debouncePass =>
        rw [sequencerStep_waited hprog]
        exact debouncePass_keeps_inv h hheld hbusy horder hpins
      | coarseSample c =>
        rw [sequencerStep_coarseSample hprog]
        refine h.of_running hheld hbusy .intro .idle ?_ hpins h.clockLow h.queueBound h.snapForm
        show sequenced .idle (if s.senses c then probeSteps c ++ rest else rest) = true
        split
        · exact keepsOrder_probeSteps c rest horder
        · exact horder
      | setAddr a =>
        rw [sequencerStep_setAddr hprog]
        exact h.of_running hheld hbusy .intro .idle horder hpins h.clockLow h.queueBound h.snapForm
      | wait k =>
        rw [sequencerStep_wait hprog]
        exact h.of_running hheld hbusy .intro .idle horder hpins h.clockLow h.queueBound h.snapForm
      | snapshot =>
        rw [sequencerStep_snapshot hprog]
        exact h.of_running hheld hbusy .intro .idle horder hpins h.clockLow h.queueBound h.fbForm
      | snapshotClear =>
        rw [sequencerStep_snapshotClear hprog]
        exact h.of_running hheld hbusy .intro .idle horder hpins h.clockLow h.queueBound h.fbForm
      | beginShift src =>
        rw [sequencerStep_beginShift hprog]
        exact h.of_running hheld hbusy .intro .shifting horder ⟨Nat.zero_lt_succ 71, rfl⟩ h.clockLow h.queueBound h.snapForm
      | latchOn =>
        rw [sequencerStep_latchOn hprog]
        exact h.of_running hheld hbusy .intro .pulsing horder ⟨rfl, rfl⟩ h.clockLow h.queueBound h.snapForm
      | latchOff =>
        rw [sequencerStep_latchOff hprog]
        exact h.of_running hheld hbusy .intro .idle horder ⟨hpins.1, rfl⟩ h.clockLow h.queueBound h.snapForm
      | probeSample c =>
        rw [sequencerStep_probeSample hprog]
        exact h.of_running hheld hbusy .intro .idle horder hpins h.clockLow h.queueBound h.snapForm
      | cellSample c y x =>
        rw [sequencerStep_cellSample hprog]
        exact h.of_running hheld hbusy .intro .idle horder hpins h.clockLow h.queueBound h.snapForm

end

end Sys2Proof.Machine

open Sys2Proof Sys2Proof.Machine

/-- Settles O46: right after reset every state of CORE is at its reset value. -/
theorem resetMeetsTheInvariant : Obligations.ResetMeetsTheInvariant := .of_resetCore rfl nofun

/-- Settles O49: the sequencer's turn by its bus step, a command by what it can do, a reset by its values, and the other
turns touch nothing the command in progress uses. -/
theorem everyStepKeepsTheInvariant : Obligations.EveryStepKeepsTheInvariant := by
  intro s t h hstep
  cases step_to hstep with
  | sequencer rest =>
    unfold State.sequencerTurn
    split
    next hop => exact sequencerStep_keeps_inv (h.setSchedule rest) (not_held_of_operating hop).1
    next => exact h.setSchedule rest
  | @command _ rest _ _ _ hop _ hexec => exact exec_keeps_inv (h.setSchedule rest) hop hexec
  | pinReset =>
    obtain ⟨hheld, hreset⟩ := pinReset_holds { s.setSchedule ‹_› with inputs := ‹_› }
    exact .of_resetCore hreset fun _ => hheld
  | quiet hquiet => exact hquiet.keeps_inv h
end

section
/-! PROOFS. Runs of bus steps (42_serializer.md, 43_scanner.md): what a transfer, an address change and a wait leave, the
time they take and what they show; with them SEND_ROW, SEND_BLANK and PROBE. -/

namespace Sys2Proof.Machine

/-! ### Runs -/

/-- The environment sets the input levels. -/
def State.setInputs (s : State) (levels : Inputs) : State := { s with inputs := levels }

/-- `n` sequencer steps from step number `m` on, the environment setting the input levels `env k` before step `k`. -/
def runFrom (env : Nat → Inputs) (m : Nat) : Nat → State → State
  | 0, s => s
  | n + 1, s => runFrom env (m + 1) n (sequencerStep (s.setInputs (env m)))

theorem runFrom_add (env : Nat → Inputs) (m a b : Nat) (s : State) :
    runFrom env m (a + b) s = runFrom env (m + a) b (runFrom env m a s) := by
  induction a generalizing m s with
  | zero => rw [Nat.zero_add]; rfl
  | succ a ih => rw [Nat.succ_add, runFrom, ih, runFrom, show m + 1 + a = m + (a + 1) by omega]

theorem runWithInputs_eq (env : Nat → Inputs) (n : Nat) (s : State) : runWithInputs env n s = runFrom env 0 n s := by
  induction n with
  | zero => rfl
  | succ n ih =>
    rw [runFrom_add, ← ih, Nat.zero_add]
    rfl

/-- A run with no other agent between is one at the input levels it begins with. -/
theorem runSequencer_eq (n m : Nat) (s : State) : runSequencer n s = runFrom (fun _ => s.inputs) m n s := by
  induction n generalizing m s with
  | zero => rfl
  | succ n ih => rw [runSequencer_succ, ih (m + 1), (sequencerStep_keeps s).2.1]; rfl

/-- A state without what transfers, address changes, waits and samples of cells move. -/
def State.unmoved (s : State) : State :=
  { s with
    progress := [], waitCount := 0, cycles := 0, trace := [], inputs := ⟨0, false, true⟩
    pins := Pins.reset s.params, txbuf := blankRow s.params, txpos := 0, board := ⟨[], blankRow s.params⟩
    raw := Grid.fill false }

/-- States that differ in nothing else are one but for those fields. -/
theorem exists_of_unmoved {s t : State} (h : t.unmoved = s.unmoved) :
    ∃ pr w c tr i pi tb tp b g, t = { s with
      progress := pr, waitCount := w, cycles := c, trace := tr, inputs := i, pins := pi, txbuf := tb, txpos := tp
      board := b, raw := g } := by
  refine ⟨t.progress, t.waitCount, t.cycles, t.trace, t.inputs, t.pins, t.txbuf, t.txpos, t.board, t.raw, ?_⟩
  calc t = { t.unmoved with
      progress := t.progress, waitCount := t.waitCount, cycles := t.cycles, trace := t.trace, inputs := t.inputs
      pins := t.pins, txbuf := t.txbuf, txpos := t.txpos, board := t.board, raw := t.raw } := rfl
    _ = _ := by rw [h]; rfl

theorem params_of_unmoved {s t : State} (h : t.unmoved = s.unmoved) : t.params = s.params := by
  obtain ⟨_, _, _, _, _, _, _, _, _, _, rfl⟩ := exists_of_unmoved h
  rfl

theorem latchHold_of_unmoved {s t : State} (h : t.unmoved = s.unmoved) : t.latchHold = s.latchHold := by
  obtain ⟨_, _, _, _, _, _, _, _, _, _, rfl⟩ := exists_of_unmoved h
  rfl

theorem waitTime_of_unmoved {s t : State} (h : t.unmoved = s.unmoved) (k : WaitKind) : t.waitTime k = s.waitTime k := by
  obtain ⟨_, _, _, _, _, _, _, _, _, _, rfl⟩ := exists_of_unmoved h
  cases k <;> rfl

/-- The row of a transfer depends on nothing that moves. -/
theorem rowFrom_of_unmoved {s t : State} (h : t.unmoved = s.unmoved) (src : RowSource) :
    t.rowFrom src = s.rowFrom src := by
  obtain ⟨_, _, _, _, _, _, _, _, _, _, rfl⟩ := exists_of_unmoved h
  cases src <;> rfl

/-- A run of bus steps: it leaves `rest` to do, at least `time` cycles pass in it, the wait it ends with among them, and it
shows `events`. -/
structure BusRun (env : Nat → Inputs) (m n : Nat) (s t : State) (rest : List BusStep) (time : Nat)
    (events : List Obs) : Prop where
  run : runFrom env m n s = t
  kept : t.unmoved = s.unmoved
  progress : t.progress = rest
  time : t.cycles + t.waitCount = s.cycles + s.waitCount + time
  events : t.observations = events.reverse ++ s.observations

theorem BusRun.trans {env : Nat → Inputs} {m a b : Nat} {s t u : State} {rest rest' : List BusStep} {time time' : Nat}
    {events events' : List Obs} (h : BusRun env m a s t rest time events)
    (h' : BusRun env (m + a) b t u rest' time' events') :
    BusRun env m (a + b) s u rest' (time + time') (events ++ events') where
  run := by rw [runFrom_add, h.run, h'.run]
  kept := h'.kept.trans h.kept
  progress := h'.progress
  time := by rw [h'.time, h.time, Nat.add_assoc]
  events := by rw [h'.events, h.events, List.reverse_append, List.append_assoc]

theorem BusRun.congr {env : Nat → Inputs} {m n n' : Nat} {s t : State} {rest : List BusStep} {time time' : Nat}
    {events events' : List Obs} (h : BusRun env m n s t rest time events) (hn : n = n') (ht : time = time')
    (he : events = events') : BusRun env m n' s t rest time' events' := by
  subst hn ht he
  exact h

/-- What a transfer leaves: its row sent and latched, the bus idle, the lines at `a` and `RAW` at `g`. -/
structure State.Sent (s : State) (row : Row) (a : BitVec 3) (g : Grid Bool) : Prop where
  txbuf : s.txbuf = row
  txpos : s.txpos = 72
  board : s.board = { shifted := [], latched := row }
  pins : s.pins = { a := a, ser := false, sck := false, lat := s.params.latIdle }
  raw : s.raw = g

/-- A bus step that moves neither the row nor `RAW`, and drives the lines to `a`, keeps what a transfer has left. -/
theorem State.Sent.of_same {s t : State} {row : Row} {a a' : BitVec 3} {g : Grid Bool} (h : s.Sent row a g)
    (hparams : t.params = s.params) (hpins : t.pins = { s.pins with a := a' }) (hraw : t.raw = s.raw)
    (htx : t.txbuf = s.txbuf ∧ t.txpos = s.txpos ∧ t.board = s.board) : t.Sent row a' g where
  txbuf := htx.1.trans h.txbuf
  txpos := htx.2.1.trans h.txpos
  board := htx.2.2.trans h.board
  pins := by rw [hpins, h.pins, hparams]
  raw := hraw.trans h.raw

section
variable (env : Nat → Inputs) (m : Nat) {s : State} {rest : List BusStep}

/-! ### Address changes and waits -/

theorem setAddr_run {a : BitVec 3} (h : s.progress = .setAddr a :: rest) :
    ∃ t, BusRun env m 1 s t rest 0 [.addr a] ∧ t.pins = { s.pins with a := a } ∧ t.raw = s.raw ∧
      t.txbuf = s.txbuf ∧ t.txpos = s.txpos ∧ t.board = s.board :=
  have hstep := sequencerStep_setAddr (s := s.setInputs (env m)) h
  ⟨_, ⟨hstep, rfl, rfl, rfl, rfl⟩, rfl, rfl, rfl, rfl, rfl⟩

theorem wait_run {k : WaitKind} (h : s.progress = .wait k :: rest) :
    ∃ t, BusRun env m 1 s t rest (s.waitTime k) [] ∧ t.pins = s.pins ∧ t.raw = s.raw ∧
      t.txbuf = s.txbuf ∧ t.txpos = s.txpos ∧ t.board = s.board :=
  have hstep := sequencerStep_wait (s := s.setInputs (env m)) h
  ⟨_, ⟨hstep, rfl, rfl, by cases k <;> rfl, rfl⟩, rfl, rfl, rfl, rfl, rfl⟩

/-- An address change: the code is driven, and the settle time is counted before the next step. -/
theorem addrSteps_run {a : BitVec 3} (h : s.progress = addrSteps a ++ rest) :
    ∃ t, BusRun env m 2 s t rest s.settleTime [.addr a] ∧ t.pins = { s.pins with a := a } ∧ t.raw = s.raw ∧
      t.txbuf = s.txbuf ∧ t.txpos = s.txpos ∧ t.board = s.board := by
  obtain ⟨t, hrun, hpins, hraw, hbuf, hpos, hboard⟩ := setAddr_run env m h
  obtain ⟨u, hrun', hpins', hraw', hbuf', hpos', hboard'⟩ := wait_run env (m + 1) hrun.progress
  have htime : 0 + t.waitTime .settle = s.settleTime := by
    rw [waitTime_of_unmoved hrun.kept, Nat.zero_add]
    rfl
  exact ⟨u, (hrun.trans hrun').congr rfl htime rfl, hpins'.trans hpins, hraw'.trans hraw, hbuf'.trans hbuf,
    hpos'.trans hpos, hboard'.trans hboard⟩

/-! ### A transfer -/

/-- What goes through the shifting of a transfer: the row, the lines, `LAT` and `RAW`. -/
structure SameTransfer (s t : State) : Prop where
  txbuf : t.txbuf = s.txbuf
  addr : t.pins.a = s.pins.a
  lat : t.pins.lat = s.pins.lat
  raw : t.raw = s.raw

theorem SameTransfer.trans {s t u : State} (h : SameTransfer s t) (h' : SameTransfer t u) : SameTransfer s u :=
  ⟨h'.txbuf.trans h.txbuf, h'.addr.trans h.addr, h'.lat.trans h.lat, h'.raw.trans h.raw⟩

theorem beginShift_run {src : RowSource} (h : s.progress = .beginShift src :: rest) :
    ∃ t, BusRun env m 1 s t rest 0 [.lat s.params.latIdle] ∧ t.txbuf = s.rowFrom src ∧ t.txpos = 0 ∧
      t.pins = { s.pins with lat := s.params.latIdle } ∧ t.raw = s.raw := by
  have hstep := sequencerStep_beginShift (s := s.setInputs (env m)) h
  have hrow : (s.setInputs (env m)).rowFrom src = s.rowFrom src := rowFrom_of_unmoved rfl src
  exact ⟨_, ⟨hstep, rfl, rfl, rfl, rfl⟩, hrow, rfl, rfl, rfl⟩

theorem latchOn_run (h : s.progress = .latchOn :: rest) :
    ∃ t, BusRun env m 1 s t rest s.latchHold [.ser false, .lat s.params.latPulse] ∧ t.txbuf = s.txbuf ∧
      t.txpos = s.txpos ∧ t.pins = { s.pins with ser := false, lat := s.params.latPulse } ∧ t.raw = s.raw ∧
      t.board = { shifted := [], latched := s.txbuf } :=
  have hstep := sequencerStep_latchOn (s := s.setInputs (env m)) h
  ⟨_, ⟨hstep, rfl, rfl, rfl, rfl⟩, rfl, rfl, rfl, rfl, rfl⟩

theorem latchOff_run (h : s.progress = .latchOff :: rest) :
    ∃ t, BusRun env m 1 s t rest 0 [.lat s.params.latIdle] ∧ t.txbuf = s.txbuf ∧
      t.txpos = s.txpos ∧ t.pins = { s.pins with lat := s.params.latIdle } ∧ t.raw = s.raw ∧ t.board = s.board :=
  have hstep := sequencerStep_latchOff (s := s.setInputs (env m)) h
  ⟨_, ⟨hstep, rfl, rfl, rfl, rfl⟩, rfl, rfl, rfl, rfl, rfl⟩

variable (hbus : ∀ k, (env k).busFault = false)
include hbus

/-- One bit of a transfer, `BUS_FAULT` low. -/
theorem shiftBit_run (h : s.progress = .shiftBit :: rest) (hpos : s.txpos.val < 72) :
    ∃ t, BusRun env m 1 s t (if s.txpos.val = 71 then rest else s.progress) s.params.tSck
        (bitEvents (Row.streamBit s.txbuf s.txpos.val)) ∧
      SameTransfer s t ∧ t.txpos.val = s.txpos.val + 1 ∧ t.pins.sck = false :=
  have hstep := sequencerStep_sends_bit (s := s.setInputs (env m)) h hpos
    (faultSampled_eq_false_iff.mpr fun _ => hbus m)
  ⟨_, ⟨hstep, rfl, rfl, rfl, rfl⟩, ⟨rfl, rfl, rfl, rfl⟩, rfl, rfl⟩

/-- The bits still to come of a transfer, most significant bit of each byte first. -/
theorem shiftBits_run (n : Nat) (h : s.progress = .shiftBit :: rest) (hpos : s.txpos.val + (n + 1) = 72) :
    ∃ t, BusRun env m (n + 1) s t rest ((n + 1) * s.params.tSck)
        (((List.range' s.txpos.val (n + 1)).map (Row.streamBit s.txbuf)).flatMap bitEvents) ∧
      SameTransfer s t ∧ t.txpos.val = 72 ∧ t.pins.sck = false := by
  induction n generalizing m s with
  | zero =>
    obtain ⟨t, hrun, hsame, hnext, hsck⟩ := shiftBit_run env m hbus h (by omega)
    rw [if_pos (by omega)] at hrun
    exact ⟨t, hrun.congr rfl (by omega) (by simp), hsame, by omega, hsck⟩
  | succ n ih =>
    obtain ⟨t, hrun, hsame, hnext, hsck⟩ := shiftBit_run env m hbus h (by omega)
    rw [if_neg (by omega)] at hrun
    obtain ⟨u, hrun', hsame', hend⟩ := ih (m + 1) (hrun.progress.trans h) (by omega)
    have hparams : t.params = s.params := params_of_unmoved hrun.kept
    refine ⟨u, (hrun.trans hrun').congr (by omega) ?_ ?_, hsame.trans hsame', hend⟩
    · rw [hparams]
      ring
    · rw [hsame.txbuf, hnext, List.range'_succ (n := n + 1)]
      rfl

/-- A transfer, `BUS_FAULT` low: its 72 bits leave in order and the board latches the row. -/
theorem shiftSteps_run {src : RowSource} (h : s.progress = shiftSteps src ++ rest) :
    ∃ t, BusRun env m 75 s t rest s.shiftTime (shiftEvents s.params (s.rowFrom src)) ∧
      t.Sent (s.rowFrom src) s.pins.a s.raw := by
  obtain ⟨t, hbegin, hbuf, hpos, hpins, hraw⟩ := beginShift_run env m h
  obtain ⟨u, hbits, hsame, hpos', hsck⟩ := shiftBits_run env (m + 1) hbus 71 hbegin.progress (by simp [hpos])
  obtain ⟨v, hon, honbuf, honpos, honpins, honraw, honboard⟩ := latchOn_run env (m + 1 + 72) hbits.progress
  obtain ⟨w, hoff, hoffbuf, hoffpos, hoffpins, hoffraw, hoffboard⟩ := latchOff_run env (m + 1 + 72 + 1) hon.progress
  have hrow : v.txbuf = s.rowFrom src := honbuf.trans (hsame.txbuf.trans hbuf)
  have hparams : t.params = s.params ∧ u.params = s.params ∧ v.params = s.params ∧ w.params = s.params :=
    ⟨params_of_unmoved hbegin.kept, params_of_unmoved (hbits.kept.trans hbegin.kept),
      params_of_unmoved (hon.kept.trans (hbits.kept.trans hbegin.kept)),
      params_of_unmoved (hoff.kept.trans (hon.kept.trans (hbits.kept.trans hbegin.kept)))⟩
  obtain ⟨ht, hu, hv, hw⟩ := hparams
  have hrun := ((hbegin.trans hbits).trans hon).trans hoff
  refine ⟨w, hrun.congr rfl ?_ ?_, ?_⟩
  · rw [ht, latchHold_of_unmoved (hbits.kept.trans hbegin.kept)]
    simp [State.shiftTime, State.latchHold]
  · rw [hu, hv, hbuf, hpos]
    simp [shiftEvents, Row.stream, List.range_eq_range']
  · exact {
      txbuf := hoffbuf.trans hrow
      txpos := hoffpos.trans (honpos.trans (Fin.ext hpos'))
      board := by rw [hoffboard, honboard, ← honbuf, hrow]
      pins := by simp [hoffpins, honpins, hsck, hsame.addr, hpins, hv, hw]
      raw := by rw [hoffraw, honraw, hsame.raw, hraw] }

end

/-! ### The end of a command -/

/-- The completion: the last wait passes, CORE is idle, and what the run has moved stays. -/
theorem sequencerStep_complete_of_unmoved {s t : State} (h : t.unmoved = s.unmoved) (hprog : t.progress = [.complete])
    (levels : Inputs) : sequencerStep (t.setInputs levels) = { s with
      busy := false, runop := 0, progress := [], waitCount := 0, cycles := t.cycles + t.waitCount, inputs := levels
      txbuf := t.txbuf, txpos := t.txpos, board := t.board, pins := t.pins, raw := t.raw, trace := t.trace } := by
  rw [sequencerStep_complete (s := t.setInputs levels) (rest := []) hprog]
  obtain ⟨_, _, _, _, _, _, _, _, _, _, rfl⟩ := exists_of_unmoved h
  rfl

theorem BusRun.complete {env : Nat → Inputs} {m n : Nat} {s t : State} {time : Nat} {events : List Obs}
    (h : BusRun env m n s t [.complete] time events) :
    runFrom env m (n + 1) s = { s with
      busy := false, runop := 0, progress := [], waitCount := 0, cycles := s.cycles + s.waitCount + time
      inputs := env (m + n), txbuf := t.txbuf, txpos := t.txpos, board := t.board, pins := t.pins, raw := t.raw
      trace := t.trace } := by
  rw [runFrom_add, h.run, ← h.time]
  exact sequencerStep_complete_of_unmoved h.kept h.progress _

/-- A command begins with the rows of the state it is accepted in. -/
theorem rowFrom_startLong (s : State) (e : ErrCode) (op : BitVec 4) (steps : List BusStep) (src : RowSource) :
    ((s.setErr e).startLong op steps).rowFrom src = s.rowFrom src := by
  cases src <;> rfl

/-- Pins whose bus is idle are given by the address lines. -/
theorem pins_of_busIdle {s : State} (hser : s.pins.ser = false) (hsck : s.pins.sck = false)
    (hlat : s.pins.lat = s.params.latIdle) :
    { a := s.pins.a, ser := false, sck := false, lat := s.params.latIdle : Pins } = s.pins := by
  generalize s.pins = pins at *
  cases pins
  simp_all

/-- The run of SEND_ROW and SEND_BLANK. -/
theorem sendSteps_run {s : State} {src : RowSource} (h : s.progress = sendSteps src) (hbus : s.inputs.busFault = false) :
    ∃ tr, runSequencer 76 s = { s with
        busy := false, runop := 0, progress := [], waitCount := 0, cycles := s.cycles + s.waitCount + s.shiftTime
        txbuf := s.rowFrom src, txpos := 72, board := { shifted := [], latched := s.rowFrom src }
        pins := { a := s.pins.a, ser := false, sck := false, lat := s.params.latIdle }, trace := tr } ∧
      tr.map Prod.snd = (shiftEvents s.params (s.rowFrom src)).reverse ++ s.observations := by
  obtain ⟨t, hrun, hsent⟩ := shiftSteps_run (fun _ => s.inputs) 0 (fun _ => hbus) h
  refine ⟨t.trace, ?_, hrun.events⟩
  rw [runSequencer_eq 76 0, hrun.complete, hsent.txbuf, hsent.txpos, hsent.board, hsent.pins, hsent.raw,
    params_of_unmoved hrun.kept]

/-- The run of PROBE: its transfer, and the sample of the cell's line right after (43_scanner.md R182, R183). -/
theorem probeCommandSteps_run {s : State} {x y : Fin 12} (h : s.progress = probeCommandSteps x y)
    (hbus : s.inputs.busFault = false) :
    ∃ tr, runSequencer 77 s = { s with
        busy := false, runop := 0, progress := [], waitCount := 0, cycles := s.cycles + s.waitCount + s.shiftTime
        senseProbe := s.senses (channelOf y)
        txbuf := s.rowFrom (.fbProbe x y), txpos := 72, board := { shifted := [], latched := s.rowFrom (.fbProbe x y) }
        pins := { a := s.pins.a, ser := false, sck := false, lat := s.params.latIdle }, trace := tr } ∧
      tr.map Prod.snd = .sample (channelOf y) (s.lineLevel (channelOf y)) ::
        ((shiftEvents s.params (s.rowFrom (.fbProbe x y))).reverse ++ s.observations) := by
  obtain ⟨t, hrun, hsent⟩ := shiftSteps_run (fun _ => s.inputs) 0 (fun _ => hbus) h
  have hsample := sequencerStep_probeSample (s := t.setInputs s.inputs) hrun.progress
  have hparams := params_of_unmoved hrun.kept
  generalize hu : sequencerStep (t.setInputs s.inputs) = u at hsample
  have hkept : u.unmoved = { s with senseProbe := s.senses (channelOf y) }.unmoved := by
    obtain ⟨_, _, _, _, _, _, _, _, _, _, rfl⟩ := exists_of_unmoved hrun.kept
    rw [hsample]
    rfl
  have hcycles : u.cycles + u.waitCount = s.cycles + s.waitCount + s.shiftTime := by
    rw [hsample, ← hrun.time]
    rfl
  have hu' : u.txbuf = t.txbuf ∧ u.txpos = t.txpos ∧ u.board = t.board ∧ u.pins = t.pins ∧ u.raw = t.raw ∧
      u.progress = [.complete] := by
    rw [hsample]
    exact ⟨rfl, rfl, rfl, rfl, rfl, rfl⟩
  obtain ⟨hbuf, hpos, hboard, hpins, hraw, hprog⟩ := hu'
  refine ⟨u.trace, ?_, ?_⟩
  · have hend : runSequencer 77 s = sequencerStep (u.setInputs s.inputs) := by
      rw [runSequencer_eq 77 0, show 77 = 75 + 2 from rfl, runFrom_add, hrun.run, ← hu]
      rfl
    rw [hend, sequencerStep_complete_of_unmoved hkept hprog, hcycles, hbuf, hpos, hboard, hpins, hraw, hsent.txbuf,
      hsent.txpos, hsent.board, hsent.pins, hsent.raw, hparams]
  · have hshown : u.trace.map Prod.snd = .sample (channelOf y) ((t.setInputs s.inputs).lineLevel (channelOf y)) ::
        t.observations := by
      rw [hsample]
      rfl
    rw [hshown, hrun.events]
    rfl

/-! ### Rows -/

/-- The row of a probe: the cell's red bit at `ON`, every other bit as it was (43_scanner.md R182). -/
theorem getLsbD_probeRow (p : Params) (w : Row) (x y : Nat) {b : Nat} (hb : b < 9) {k : Nat} (hk : k < 8) :
    (probeRow p w x y)[b].getLsbD k =
      if b = (mapper x y).byte + 1 ∧ k = (mapper x y).bit then p.onLevel else w[b].getLsbD k := by
  rw [probeRow, getElem_withBit]
  by_cases hbyte : b = (mapper x y).byte + 1
  · rw [if_pos hbyte, getLsbD_setBit _ _ _ _ hk]
    simp [hbyte]
  · rw [if_neg hbyte, if_neg fun h => hbyte h.1]

/-- The row of the coarse check: the three red bytes at `ON`, the others as they were (43_scanner.md R184). -/
theorem getElem_coarseRow (p : Params) (w : Row) {b : Nat} (hb : b < 9) :
    (coarseRow p w)[b] = if b % 3 = 1 then p.onByte else w[b] := by
  have hred : (b = 1 ∨ b = 4 ∨ b = 7) ↔ b % 3 = 1 := by omega
  simp [coarseRow, hred]

/-- The bus steps of a channel's probes, in the order of the scan (43_scanner.md R185). -/
theorem probeSteps_eq (c : Fin 6) : probeSteps c = (List.range 24).flatMap fun k =>
    cellSteps c (Fin.ofNat 12 (c.val + 6 * (k / 12))) (Fin.ofNat 12 (k % 12)) := by
  fin_cases c <;> rfl

end Sys2Proof.Machine

open Sys2Proof Sys2Proof.Machine

/-- Settles O26: the two commands are one transfer each. -/
theorem sendTransmitsAndLatchesTheRow : Obligations.SendTransmitsAndLatchesTheRow := by
  intro s hbusy hfault hbus hser hsck hlat i row hi
  have hsteps : ∃ src, i.isLong = true ∧ i.inRange = true ∧ i.op = 8 ∧ longSteps s.params s.cfg i = sendSteps src ∧
      s.rowFrom src = row := by
    rcases hi with ⟨r, rfl, hrow⟩ | ⟨rfl, rfl⟩
    · refine ⟨.fbRow r, rfl, ?_, rfl, ?_, Vector.ext fun b hb => ?_⟩
      · exact decide_eq_true (by simp; omega)
      · exact congrArg (fun k => sendSteps (.fbRow k)) (Fin.ext (by simp; omega))
      · exact (getElem_fbRow s r hb).trans (hrow ⟨b, hb⟩).symm
    · exact ⟨.blank, rfl, rfl, rfl, rfl, rfl⟩
  obtain ⟨src, hlong, hrange, hop, hsteps, rfl⟩ := hsteps
  refine ⟨_, exec_long_accepted hlong hbusy hfault hrange, by rw [hop]; rfl, ?_⟩
  rw [hop, hsteps]
  obtain ⟨tr, hend, hshown⟩ := sendSteps_run (s := (s.setErr .ok).startLong 8 (sendSteps src)) rfl hbus
  rw [rowFrom_startLong] at hend hshown
  have hpins := pins_of_busIdle hser hsck hlat
  refine ⟨?_, ?_⟩
  · rw [hend]
    simp only [State.startLong, State.setErr, hpins]
    rfl
  · rw [hend]
    exact hshown

/-- Settles O31: PROBE is one transfer and the sample after it. -/
theorem probeSendsTheRedBitAndSamples : Obligations.ProbeSendsTheRedBitAndSamples := by
  intro s x y hbusy hfault hbus hser hsck hlat
  have hrange : (Instr.probe (BitVec.ofNat 4 x.val) (BitVec.ofNat 4 y.val)).inRange = true :=
    decide_eq_true (by simp; omega)
  have hsteps : longSteps s.params s.cfg (.probe (BitVec.ofNat 4 x.val) (BitVec.ofNat 4 y.val)) = probeCommandSteps x y :=
    congrArg₂ probeCommandSteps (Fin.ext (by simp; omega)) (Fin.ext (by simp; omega))
  have hop : (Instr.probe (BitVec.ofNat 4 x.val) (BitVec.ofNat 4 y.val)).op = 0xA := rfl
  refine ⟨_, exec_long_accepted rfl hbusy hfault hrange, rfl, ?_⟩
  rw [hop, hsteps]
  obtain ⟨tr, hend, hshown⟩ := probeCommandSteps_run
    (s := (s.setErr .ok).startLong 0xA (probeCommandSteps x y)) rfl hbus
  rw [rowFrom_startLong] at hend hshown
  have hpins := pins_of_busIdle hser hsck hlat
  have hsense : s.senses (channelOf y) = (s.inputs.lines.getLsbD (y.val % 6) == !s.params.inActiveLow) := senses_eq s _
  refine ⟨?_, fun b k hk => ?_, ?_⟩
  · rw [hend, ← hsense]
    simp only [State.startLong, State.setErr, hpins]
    rfl
  · rw [hend]
    have hbits := getLsbD_probeRow s.params (s.fbRow (y.val % 6)) x.val y.val b.isLt hk
    rwa [getElem_fbRow, ← (mapper_table x.val y.val).1] at hbits
  · rw [hend]
    exact hshown

/-- Settles O33: the rows by their bits, the bus steps written out, and the rule of each bus step. -/
theorem coarseCheckGuardsTheProbes : Obligations.CoarseCheckGuardsTheProbes := by
  refine ⟨fun p w b => getElem_coarseRow p w b.isLt, fun p w x y b k hk => getLsbD_probeRow p w x y b.isLt hk,
    fun cfg c => ?_, fun s c rest h => ?_, fun s c rest h => ?_, probeSteps_eq, fun s x y rest h => ?_,
    fun s c y x rest h => ?_⟩
  · unfold senseSteps
    split <;> rfl
  · rw [sequencerStep_beginShift h]
    refine ⟨rfl, rfl, rfl, fun b => ?_⟩
    have hbyte := getElem_coarseRow s.params (s.snapRow c.val) b.isLt
    rwa [getElem_snapRow] at hbyte
  · rw [sequencerStep_coarseSample h, ← senses_eq]
    exact ⟨rfl, rfl⟩
  · rw [sequencerStep_beginShift h]
    refine ⟨rfl, rfl, rfl, fun b k hk => ?_⟩
    have hbits := getLsbD_probeRow s.params (s.snapRow (y.val % 6)) x.val y.val b.isLt hk
    rw [getElem_snapRow] at hbits
    exact hbits
  · rw [sequencerStep_cellSample h, ← senses_eq]
    refine ⟨rfl, fun y' x' => ?_⟩
    show (if s.senses c = true then s.raw.setCell y x true else s.raw).cell y' x' = _
    by_cases hcell : y' = y ∧ x' = x
    · obtain ⟨rfl, rfl⟩ := hcell
      split <;> simp_all
    · have hother := cell_setCell_other s.raw true hcell
      split <;> simp_all
end

section
/-! PROOFS. The channels of DRAW and SCAN one after another (42_serializer.md R168, R169): the run of DRAW, what it shows
and what it leaves, and the frame buffer during a running cycle (20_memory.md section 4). -/

namespace Sys2Proof.Machine

/-! ### What a run takes for granted -/

theorem cfg_of_unmoved {s t : State} (h : t.unmoved = s.unmoved) : t.cfg = s.cfg := by
  obtain ⟨_, _, _, _, _, _, _, _, _, _, rfl⟩ := exists_of_unmoved h
  rfl

theorem times_of_unmoved {s t : State} (h : t.unmoved = s.unmoved) :
    t.settleTime = s.settleTime ∧ t.shiftTime = s.shiftTime ∧ t.onTime = s.onTime := by
  obtain ⟨_, _, _, _, _, _, _, _, _, _, rfl⟩ := exists_of_unmoved h
  exact ⟨rfl, rfl, rfl⟩

/-! ### One stage after another -/

/-- A run in stages: if stage `c` runs from step `start c` to step `start (c + 1)` and leads from what holds before it to
what holds after it, all run in order. -/
theorem stages_run {n : Nat} {env : Nat → Inputs} {s : State} {rest : List BusStep} {steps : Fin n → List BusStep}
    {start time : Nat → Nat} {events : Fin n → List Obs} {holds : Nat → State → Prop}
    (hmono : ∀ c : Fin n, start c.val ≤ start (c.val + 1))
    (hstage : ∀ (c : Fin n) (t : State) (rest' : List BusStep), t.unmoved = s.unmoved → holds c.val t →
      t.progress = steps c ++ rest' →
      ∃ u, BusRun env (start c.val) (start (c.val + 1) - start c.val) t u rest' (time c.val) (events c) ∧
        holds (c.val + 1) u)
    (hbegin : holds 0 s) (hprog : s.progress = (List.finRange n).flatMap steps ++ rest) :
    ∃ u, BusRun env (start 0) (start n - start 0) s u rest ((List.range n).map time).sum
      ((List.finRange n).flatMap events) ∧ holds n u := by
  have hsome : ∀ c, c ≤ n → start 0 ≤ start c ∧
      ∃ u, BusRun env (start 0) (start c - start 0) s u (((List.finRange n).drop c).flatMap steps ++ rest)
        ((List.range c).map time).sum (((List.finRange n).take c).flatMap events) ∧ holds c u := by
    intro c hc
    induction c with
    | zero =>
      refine ⟨le_rfl, s, ⟨?_, rfl, hprog, rfl, rfl⟩, hbegin⟩
      rw [Nat.sub_self]
      rfl
    | succ c ih =>
      obtain ⟨hle, t, hrun, ht⟩ := ih (by omega)
      have hnext : (List.finRange n).drop c = ⟨c, hc⟩ :: (List.finRange n).drop (c + 1) := by
        rw [List.drop_eq_getElem_cons (by simpa using hc), List.getElem_finRange]
        rfl
      have hdone : (List.finRange n).take (c + 1) = (List.finRange n).take c ++ [⟨c, hc⟩] := by
        rw [List.take_succ_eq_append_getElem (by simpa using hc), List.getElem_finRange]
        rfl
      have hstep := hmono ⟨c, hc⟩
      simp only at hstep
      have hprog' : t.progress = steps ⟨c, hc⟩ ++ (((List.finRange n).drop (c + 1)).flatMap steps ++ rest) := by
        rw [hrun.progress, hnext, List.flatMap_cons, List.append_assoc]
      obtain ⟨u, hrun', hu⟩ := hstage ⟨c, hc⟩ t _ hrun.kept ht hprog'
      rw [show start c = start 0 + (start c - start 0) by omega] at hrun'
      refine ⟨hle.trans hstep, u, (hrun.trans hrun').congr (by simp only; omega) ?_ ?_, hu⟩
      · simp [List.range_succ]
      · rw [hdone, List.flatMap_append, List.flatMap_singleton]
  obtain ⟨-, u, hrun, hu⟩ := hsome n le_rfl
  have hall : (List.finRange n).take n = List.finRange n := List.take_of_length_le (by simp)
  have hnone : (List.finRange n).drop n = [] := List.drop_of_length_le (by simp)
  rw [hall, hnone] at hrun
  exact ⟨u, hrun, hu⟩

/-- The row a channel's drive ends with (42_serializer.md R168). -/
def State.driveLast (s : State) (c : Fin 6) : Row := if s.cfg.antiGhost then blankRow s.params else s.snapRow c.val

/-- The drive of one channel, `BUS_FAULT` low. -/
theorem driveSteps_run (env : Nat → Inputs) (m : Nat) {s : State} {rest : List BusStep}
    (hbus : ∀ k, (env k).busFault = false) {c : Fin 6} (h : s.progress = driveSteps s.params s.cfg c ++ rest) :
    ∃ t, BusRun env m (78 + if s.cfg.antiGhost then 75 else 0) s t rest
        (s.settleTime + s.shiftTime + s.onTime + if s.cfg.antiGhost then s.shiftTime else 0)
        (driveEvents s.params s.cfg c (s.snapRow c.val)) ∧
      t.Sent (s.driveLast c) s.params.chAddr[c.val] s.raw := by
  simp only [driveSteps, List.append_assoc] at h
  obtain ⟨t, haddr, hpins, hraw, -⟩ := addrSteps_run env m h
  obtain ⟨u, hshift, hsent⟩ := shiftSteps_run env (m + 2) hbus haddr.progress
  obtain ⟨v, hwait, hpins', hraw', htx⟩ := wait_run env (m + 2 + 75) hshift.progress
  have ht := haddr.kept
  have hu := hshift.kept.trans ht
  have hv := hwait.kept.trans hu
  have hrow : t.rowFrom (.snapRow c) = s.snapRow c.val := rowFrom_of_unmoved ht _
  have htime : u.waitTime .onTime = s.onTime := waitTime_of_unmoved hu _
  have haddrRow : t.pins.a = s.params.chAddr[c.val] := by rw [hpins]
  rw [hrow, haddrRow, hraw] at hsent
  have hvsent : v.Sent (s.snapRow c.val) s.params.chAddr[c.val] s.raw :=
    hsent.of_same (params_of_unmoved hwait.kept) (by rw [hpins', hsent.pins]) hraw' htx
  have hrun := (haddr.trans hshift).trans hwait
  rw [hrow, params_of_unmoved ht, (times_of_unmoved ht).2.1, htime] at hrun
  cases hghost : s.cfg.antiGhost with
  | false =>
    simp only [hghost, Bool.false_eq_true, if_false, List.nil_append] at hrun
    refine ⟨v, hrun.congr rfl ?_ ?_, ?_⟩
    · simp
    · simp [driveEvents, hghost]
    · simpa [State.driveLast, hghost] using hvsent
  | true =>
    have hblank := hwait.progress
    simp only [hghost, if_true] at hblank
    obtain ⟨w, hshift', hsent'⟩ := shiftSteps_run env (m + 2 + 75 + 1) hbus hblank
    have hblankRow : v.rowFrom .blank = blankRow s.params := rowFrom_of_unmoved hv _
    rw [hblankRow, params_of_unmoved hv, (times_of_unmoved hv).2.1] at hshift'
    rw [hblankRow, hvsent.pins, hvsent.raw] at hsent'
    refine ⟨w, (hrun.trans hshift').congr rfl ?_ ?_, ?_⟩
    · simp
    · simp [driveEvents, hghost]
    · simpa [State.driveLast, hghost] using hsent'

/-! ### DRAW -/

/-- The steps of one channel of DRAW (42_serializer.md R168). -/
def drawLength (cfg : CfgRegs) : Nat := 78 + if cfg.antiGhost then 75 else 0

theorem drawLength_eq (cfg : CfgRegs) : drawLength cfg = 78 + 75 * (if cfg.antiGhost then 1 else 0) := by
  unfold drawLength
  split <;> rfl

/-- The cycles of one channel of DRAW (70_reset_and_hazards.md R292). -/
def State.drawTime (s : State) : Nat :=
  s.settleTime + s.shiftTime + s.onTime + if s.cfg.antiGhost then s.shiftTime else 0

/-- The six channels of DRAW. -/
theorem drawChannels_run (env : Nat → Inputs) {s : State} {rest : List BusStep} (hbus : ∀ k, (env k).busFault = false)
    (h : s.progress = (List.finRange 6).flatMap (driveSteps s.params s.cfg) ++ rest) :
    ∃ t, BusRun env 1 (6 * drawLength s.cfg) s t rest (6 * s.drawTime)
        ((List.finRange 6).flatMap fun c => driveEvents s.params s.cfg c (s.snapRow c.val)) ∧
      t.Sent (s.driveLast 5) s.params.chAddr[5] s.raw := by
  have hchannels := stages_run (env := env) (s := s) (rest := rest) (steps := driveSteps s.params s.cfg)
    (start := fun c => 1 + c * drawLength s.cfg) (time := fun _ => s.drawTime)
    (events := fun c => driveEvents s.params s.cfg c (s.snapRow c.val))
    (holds := fun c t => t.raw = s.raw ∧ ∀ k : Fin 6, c = k.val + 1 → t.Sent (s.driveLast k) s.params.chAddr[k.val] s.raw)
    (fun c => by simp only [Nat.add_mul]; omega) ?_ ⟨rfl, fun k hk => absurd hk.symm (Nat.succ_ne_zero _)⟩ h
  · obtain ⟨t, hrun, -, hsent⟩ := hchannels
    simp only [Nat.zero_mul, Nat.add_zero] at hrun
    exact ⟨t, hrun.congr (by simp) (by simp; omega) rfl, hsent 5 rfl⟩
  · rintro c t rest' hkept ⟨hraw, -⟩ hprog
    rw [← params_of_unmoved hkept, ← cfg_of_unmoved hkept] at hprog
    obtain ⟨u, hrun, hsent⟩ := driveSteps_run env (1 + c.val * drawLength s.cfg) hbus hprog
    have hrow : t.snapRow c.val = s.snapRow c.val := rowFrom_of_unmoved hkept (.snapRow c)
    obtain ⟨hsettle, hshift, hon⟩ := times_of_unmoved hkept
    simp only [params_of_unmoved hkept, cfg_of_unmoved hkept, hrow, hsettle, hshift, hon, hraw, State.driveLast] at hrun hsent
    refine ⟨u, hrun.congr ?_ rfl rfl, hsent.raw, fun k hk => ?_⟩
    · simp only [drawLength, Nat.add_mul]
      omega
    · obtain rfl : c = k := Fin.ext (Nat.succ.inj hk)
      exact hsent

/-- The run of DRAW: the snapshot, the six channels, the deselect and its settle wait. -/
theorem drawSteps_run {s : State} (h : s.progress = drawSteps s.params s.cfg) (hbus : s.inputs.busFault = false) :
    ∃ tr, runSequencer (6 * drawLength s.cfg + 4) s = { s with
        busy := false, runop := 0, progress := [], waitCount := 0, snap := s.fb
        cycles := s.cycles + s.waitCount + 6 * s.drawTime + s.settleTime
        txbuf := if s.cfg.antiGhost then blankRow s.params else s.fbRow 5, txpos := 72
        board := { shifted := [], latched := if s.cfg.antiGhost then blankRow s.params else s.fbRow 5 }
        pins := { a := 0, ser := false, sck := false, lat := s.params.latIdle }, trace := tr } ∧
      tr.map Prod.snd = (drawEvents s.params s.cfg fun c => s.fbRow c.val).reverse ++ s.observations := by
  simp only [drawSteps, List.append_assoc] at h
  have hsnap := sequencerStep_snapshot (rest := (List.finRange 6).flatMap (driveSteps s.params s.cfg) ++
    (addrSteps 0 ++ [.complete])) h
  obtain ⟨t, ht⟩ : ∃ t, t = sequencerStep s := ⟨_, rfl⟩
  rw [← ht] at hsnap
  have hprog : t.progress = (List.finRange 6).flatMap (driveSteps t.params t.cfg) ++ (addrSteps 0 ++ [.complete]) := by
    rw [hsnap]
  obtain ⟨u, hrun, hsent⟩ := drawChannels_run (fun _ => s.inputs) (fun _ => hbus) hprog
  obtain ⟨v, haddr, hpins, hraw, htx⟩ := addrSteps_run (fun _ => s.inputs) (1 + 6 * drawLength t.cfg) hrun.progress
  have hvsent := hsent.of_same (params_of_unmoved haddr.kept) hpins hraw htx
  have hrun' := hrun.trans haddr
  have hstart : runSequencer (6 * drawLength s.cfg + 4) s =
      runFrom (fun _ => s.inputs) 1 (6 * drawLength t.cfg + 2 + 1) t := by
    rw [runSequencer_eq _ 0, show t.cfg = s.cfg by rw [hsnap], ht]
    rfl
  refine ⟨v.trace, ?_, ?_⟩
  · rw [hstart, hrun'.complete, hvsent.txbuf, hvsent.txpos, hvsent.board, hvsent.pins, hvsent.raw,
      params_of_unmoved hrun'.kept, (times_of_unmoved hrun.kept).1, State.driveLast, ← Nat.add_assoc, hsnap]
    rfl
  · have hshown := hrun'.events
    rw [hsnap] at hshown
    exact hshown

/-- With the lines deselected no plane is lit: no channel has that code (10_state.md R52, 00_scope.md R11). -/
theorem lit_of_deselected {s : State} (hlegal : s.params.chAddrLegal = true) (haddr : s.pins.a = 0) (x y p : Nat) :
    s.lit x y p = false := by
  have hcode := (chAddr_ne_zero_and_ne_seven hlegal (Fin.isLt (Fin.ofNat 6 (mapper x y).row))).1
  unfold State.lit
  rw [haddr, if_neg (by decide), beq_false_of_ne hcode.symm, Bool.false_and]

/-! ### The frame buffer during a running cycle -/

/-- Bus steps that read no frame buffer. -/
def ReadsNoFb (steps : List BusStep) : Prop := ∀ b ∈ steps, readsFb b = false

theorem readsNoFb_driveSteps (p : Params) (cfg : CfgRegs) (c : Fin 6) : ReadsNoFb (driveSteps p cfg c) := by
  unfold driveSteps
  split <;> simp [ReadsNoFb, addrSteps, shiftSteps, readsFb]

theorem readsNoFb_probeSteps (c : Fin 6) : ReadsNoFb (probeSteps c) := by
  intro b hb
  simp only [probeSteps, List.mem_flatMap] at hb
  obtain ⟨y, -, x, -, hb⟩ := hb
  revert b
  simp [cellSteps, shiftSteps, readsFb]

theorem readsNoFb_senseSteps (cfg : CfgRegs) (c : Fin 6) : ReadsNoFb (senseSteps cfg c) := by
  unfold senseSteps
  split
  · simp [ReadsNoFb, addrSteps, shiftSteps, readsFb]
  · intro b hb
    rcases List.mem_append.mp hb with haddr | hprobe
    · simp only [addrSteps, List.mem_cons, List.not_mem_nil, or_false] at haddr
      rcases haddr with rfl | rfl <;> rfl
    · exact readsNoFb_probeSteps c b hprobe

/-- The part of a state the debounce pass works on: the parameters, the configuration, the grids and the queue. -/
def State.debouncePart (s : State) : State :=
  { State.resetWith s.params ⟨0, false, true⟩ ⟨[], blankRow s.params⟩ with
    cfg := s.cfg, raw := s.raw, prev := s.prev, cnt := s.cnt, stable := s.stable, evq := s.evq, ovf := s.ovf }

theorem pushEvent_debouncePart (s : State) (e : Event) :
    (s.pushEvent e).debouncePart = s.debouncePart.pushEvent e := by
  rcases pushEvent_cases s e with ⟨hroom, hpush⟩ | ⟨hfull, hpush⟩ <;> rw [hpush]
  · exact (if_pos (by exact hroom)).symm
  · exact (if_neg (by exact Nat.not_lt.mpr hfull)).symm

theorem debounceCell_debouncePart (s : State) (y x : Fin 12) :
    (s.debounceCell y x).debouncePart = s.debouncePart.debounceCell y x := by
  have hcell : s.debouncePart.cellCommits y x = s.cellCommits y x := rfl
  cases hcommits : s.cellCommits y x with
  | false =>
    rw [debounceCell_of_not_commits hcommits, debounceCell_of_not_commits (hcell.trans hcommits)]
    rfl
  | true =>
    rw [debounceCell_of_commits hcommits, debounceCell_of_commits (hcell.trans hcommits), pushEvent_debouncePart]
    rfl

/-- The debounce pass reads nothing else (44_debounce.md R201, R202). -/
theorem debouncePass_debouncePart (s : State) : s.debouncePass.debouncePart = s.debouncePart.debouncePass := by
  unfold State.debouncePass
  generalize allCells = cells
  induction cells generalizing s with
  | nil => rfl
  | cons c cells ih => rw [List.foldl_cons, List.foldl_cons, ih, debounceCell_debouncePart]

/-- What the debounce pass makes of a state, read off any state with the same grids, queue, parameters and
configuration. -/
theorem debouncePass_of_debouncePart {s d : State} (h : s.debouncePart = d.debouncePart) :
    s.debouncePass = { s with
      prev := d.debouncePass.prev, cnt := d.debouncePass.cnt, stable := d.debouncePass.stable
      evq := d.debouncePass.evq, ovf := d.debouncePass.ovf } := by
  have hpart : s.debouncePass.debouncePart = d.debouncePass.debouncePart := by
    rw [debouncePass_debouncePart, h, debouncePass_debouncePart]
  obtain ⟨c, p, st, q, o, hpass⟩ := debouncePass_frame s
  rw [hpass] at hpart ⊢
  generalize d.debouncePass = e at hpart ⊢
  obtain rfl : p = e.prev := congrArg State.prev hpart
  obtain rfl : c = e.cnt := congrArg State.cnt hpart
  obtain rfl : st = e.stable := congrArg State.stable hpart
  obtain rfl : q = e.evq := congrArg State.evq hpart
  obtain rfl : o = e.ovf := congrArg State.ovf hpart
  rfl

/-- The state with another frame buffer. -/
def State.withFb (s : State) (fb : Memory) : State := { s with fb := fb }

theorem debouncePass_withFb (s : State) (fb : Memory) :
    (s.withFb fb).debouncePass = s.debouncePass.withFb fb := by
  rw [debouncePass_of_debouncePart (s := s.withFb fb) (d := s) rfl, debouncePass_of_debouncePart (s := s) rfl]
  generalize s.debouncePass = t
  rfl

theorem shiftBitStep_withFb (s : State) (fb : Memory) :
    (s.withFb fb).shiftBitStep = s.shiftBitStep.withFb fb := by
  by_cases hpos : s.txpos.val < 72
  · cases hsampled : s.faultSampled with
    | true =>
      rw [shiftBitStep_of_faultSampled hpos hsampled, shiftBitStep_of_faultSampled (s := s.withFb fb) hpos hsampled]
      rfl
    | false =>
      rw [shiftBitStep_of_not_faultSampled hpos hsampled,
        shiftBitStep_of_not_faultSampled (s := s.withFb fb) hpos hsampled]
      rfl
  · rw [show s.shiftBitStep = s from dif_neg hpos]
    exact dif_neg hpos

/-- A bus step that does not read `FB` does the same whatever `FB` holds, and leaves it alone. -/
theorem perform_withFb {b : BusStep} (h : readsFb b = false) (s : State) (fb : Memory) :
    (s.withFb fb).perform b = (s.perform b).withFb fb := by
  cases b with
  | beginShift src =>
    cases src with
    | fbRow | fbProbe => cases h
    | _ => rfl
  | snapshot | snapshotClear => cases h
  | shiftBit => exact shiftBitStep_withFb s fb
  | cellSample c y x =>
    have hsenses : (s.withFb fb).senses c = s.senses c := rfl
    simp only [State.perform, State.cellSampleStep, hsenses]
    split <;> rfl
  | coarseSample c =>
    have hsenses : (s.withFb fb).senses c = s.senses c := rfl
    simp only [State.perform, State.coarseSampleStep, hsenses]
    split <;> rfl
  | debouncePass =>
    rw [State.perform, State.perform, debouncePass_withFb]
    generalize s.debouncePass = t
    rfl
  | _ => rfl

/-- What a bus step leaves to do: what was left, with the bits or the probes it puts before. -/
theorem readsNoFb_perform {s : State} (h : ReadsNoFb s.progress) (b : BusStep) : ReadsNoFb (s.perform b).progress := by
  cases b with
  | shiftBit =>
    rw [State.perform]
    rcases shiftBitStep_cases s with ⟨-, hstep⟩ | ⟨-, -, hstep⟩ | ⟨_, -, hstep⟩ <;> rw [hstep]
    · exact h
    · rw [transportFault_all]
      exact nofun
    · rw [sendBit_effect]
      simp only
      split
      · exact List.forall_mem_cons.mpr ⟨rfl, h⟩
      · exact h
  | cellSample c y x =>
    rw [State.perform, State.cellSampleStep]
    split <;> exact h
  | coarseSample c =>
    rw [State.perform, State.coarseSampleStep]
    split
    · exact List.forall_mem_append.mpr ⟨readsNoFb_probeSteps c, h⟩
    · exact h
  | debouncePass =>
    obtain ⟨_, _, _, _, _, hpass⟩ := debouncePass_frame s
    rw [State.perform, hpass]
    exact h
  | complete => exact nofun
  | latchOn =>
    rw [State.perform, latchOnStep_effect]
    exact h
  | _ => exact h

theorem sequencerStep_withFb {s : State} (h : ReadsNoFb s.progress) (fb : Memory) :
    sequencerStep (s.withFb fb) = (sequencerStep s).withFb fb ∧ ReadsNoFb (sequencerStep s).progress := by
  cases hprog : s.progress with
  | nil =>
    rw [sequencerStep_idle hprog, sequencerStep_idle (s := s.withFb fb) hprog]
    exact ⟨rfl, h⟩
  | cons b rest =>
    obtain ⟨hb, hrest⟩ := List.forall_mem_cons.mp (hprog ▸ h)
    rw [sequencerStep_waited hprog, sequencerStep_waited (s := s.withFb fb) hprog]
    generalize hs₁ : { s with waitCount := 0, cycles := s.cycles + s.waitCount, progress := rest } = s₁
    have hrest₁ : ReadsNoFb s₁.progress := by
      rw [← hs₁]
      exact hrest
    refine ⟨?_, readsNoFb_perform hrest₁ b⟩
    rw [← perform_withFb hb s₁ fb, ← hs₁]
    rfl

theorem runSequencer_withFb {s : State} (h : ReadsNoFb s.progress) (fb : Memory) (n : Nat) :
    runSequencer n (s.withFb fb) = (runSequencer n s).withFb fb := by
  induction n generalizing s with
  | zero => rfl
  | succ n ih =>
    obtain ⟨hstep, hrest⟩ := sequencerStep_withFb h fb
    rw [runSequencer_succ, hstep, ih hrest, runSequencer_succ]

theorem ReadsNoFb.append {l l' : List BusStep} (h : ReadsNoFb l) (h' : ReadsNoFb l') : ReadsNoFb (l ++ l') :=
  List.forall_mem_append.mpr ⟨h, h'⟩

theorem ReadsNoFb.flatMap {f : Fin 6 → List BusStep} (h : ∀ c, ReadsNoFb (f c)) (cs : List (Fin 6)) :
    ReadsNoFb (cs.flatMap f) := fun b hb =>
  have ⟨c, _, hmem⟩ := List.mem_flatMap.mp hb
  h c b hmem

/-- The first step of DRAW takes the snapshot, and the steps after it read no frame buffer. -/
theorem drawSteps_snapshot {s : State} {p : Params} {cfg : CfgRegs} (h : s.progress = drawSteps p cfg) :
    ReadsNoFb (sequencerStep s).progress ∧ (sequencerStep s).snap = s.fb := by
  have hsteps : s.progress = .snapshot ::
      ((List.finRange 6).flatMap (driveSteps p cfg) ++ (addrSteps 0 ++ [.complete])) := by
    simp [h, drawSteps]
  have hrest : ReadsNoFb (addrSteps 0 ++ [.complete]) := by simp [ReadsNoFb, addrSteps, readsFb]
  rw [sequencerStep_snapshot hsteps]
  exact ⟨(ReadsNoFb.flatMap (readsNoFb_driveSteps p cfg) _).append hrest, rfl⟩

theorem scanSteps_snapshot {s : State} {p : Params} {cfg : CfgRegs} (h : s.progress = scanSteps p cfg) :
    ReadsNoFb (sequencerStep s).progress ∧ (sequencerStep s).snap = s.fb := by
  have hsteps : s.progress = .snapshotClear ::
      ((List.finRange 6).flatMap (fun c => driveSteps p cfg c ++ senseSteps cfg c) ++ [.debouncePass, .complete]) := by
    simp [h, scanSteps]
  have hrest : ReadsNoFb [.debouncePass, .complete] := by simp [ReadsNoFb, readsFb]
  have hchannel : ∀ c, ReadsNoFb (driveSteps p cfg c ++ senseSteps cfg c) := fun c =>
    (readsNoFb_driveSteps p cfg c).append (readsNoFb_senseSteps cfg c)
  rw [sequencerStep_snapshotClear hsteps]
  exact ⟨(ReadsNoFb.flatMap hchannel _).append hrest, rfl⟩

end Sys2Proof.Machine

open Sys2Proof Sys2Proof.Machine

/-- Settles O27: the run of DRAW from the state it is accepted in. -/
theorem drawShowsEveryRowAndDeselects : Obligations.DrawShowsEveryRowAndDeselects := by
  intro s hbusy hfault hbus hser hsck hlat
  refine ⟨_, exec_draw hbusy hfault, rfl, ?_⟩
  have hrun := drawSteps_run (s := (s.setErr .ok).startLong 0xB (drawSteps s.params s.cfg)) rfl hbus
  generalize hs₁ : (s.setErr .ok).startLong 0xB (drawSteps s.params s.cfg) = s₁ at hrun ⊢
  obtain ⟨tr, hend, hshown⟩ := hrun
  have hcfg : s₁.cfg = s.cfg := hs₁ ▸ rfl
  have htime : s₁.drawTime = s.settleTime + s.shiftTime + s.onTime + (if s.cfg.antiGhost then 1 else 0) * s.shiftTime := by
    rw [← hs₁]
    show s.drawTime = _
    rw [State.drawTime]
    split <;> simp
  rw [hcfg, drawLength_eq, htime] at hend
  refine ⟨?_, ?_, ?_⟩
  · have hpins : { s.pins with a := 0 } = ({ a := 0, ser := false, sck := false, lat := s.params.latIdle } : Pins) := by
      simp [hser, hsck, hlat]
    rw [hend, hpins, ← hs₁]
    rfl
  · rw [hend, ← hs₁]
    rfl
  · rw [← hs₁] at hshown
    rw [hend]
    exact hshown

/-- Settles O28: DRAW ends with the lines deselected, and no channel has that code. -/
theorem nothingIsLitAfterADraw : Obligations.NothingIsLitAfterADraw := by
  intro s hlegal hbusy hfault hbus
  refine ⟨_, exec_draw hbusy hfault, fun x y p hx hy hp => ?_⟩
  have hrun := drawSteps_run (s := (s.setErr .ok).startLong 0xB (drawSteps s.params s.cfg)) rfl hbus
  generalize hs₁ : (s.setErr .ok).startLong 0xB (drawSteps s.params s.cfg) = s₁ at hrun ⊢
  obtain ⟨tr, hend, -⟩ := hrun
  have hcfg : s₁.cfg = s.cfg := hs₁ ▸ rfl
  have hparams : s₁.params = s.params := hs₁ ▸ rfl
  rw [hcfg, drawLength_eq] at hend
  rw [hend]
  exact lit_of_deselected (by rw [← hparams] at hlegal; exact hlegal) rfl x y p

/-- Settles O29: no bus step but the snapshot reads `FB`, and the snapshot is the first of DRAW and SCAN. -/
theorem fbWritesDoNotDisturbARunningCycle : Obligations.FbWritesDoNotDisturbARunningCycle := by
  refine ⟨fun s fb n h => runSequencer_withFb h fb n, fun s t i hi hbusy hexec herr => ?_⟩
  have hlong : i.isLong = true := by rcases hi with rfl | rfl <;> rfl
  rcases exec_long_cases hlong hexec with ⟨e, he, rfl⟩ | ⟨-, -, rfl⟩
  · exact absurd herr he
  · rw [runSequencer_one]
    rcases hi with rfl | rfl
    · exact drawSteps_snapshot (s := (s.setErr .ok).startLong 0xB (drawSteps s.params s.cfg)) rfl
    · exact scanSteps_snapshot (s := (s.setErr .ok).startLong 0xC (scanSteps s.params s.cfg)) rfl
end

section
/-! PROOFS. The run of SCAN (43_scanner.md section 1 and 2): a cell's probe, the coarse check, the probes of a channel, a
channel, and the six channels with the debounce pass after them. -/

namespace Sys2Proof.Machine

theorem active_eq (p : Params) (level : Bool) : p.active level = (level == !p.inActiveLow) := by
  unfold Params.active
  cases p.inActiveLow <;> simp

section
variable (env : Nat → Inputs) (m : Nat) {s : State} {rest : List BusStep}

/-! ### A sample after a transfer -/

theorem cellSample_run {c : Fin 6} {y x : Fin 12} (h : s.progress = .cellSample c y x :: rest) :
    ∃ t, BusRun env m 1 s t rest 0 [.sample c ((env m).lines.getLsbD c.val)] ∧ t.pins = s.pins ∧
      (t.txbuf = s.txbuf ∧ t.txpos = s.txpos ∧ t.board = s.board) ∧
      t.raw = if s.params.active ((env m).lines.getLsbD c.val) then s.raw.setCell y x true else s.raw :=
  have hstep := sequencerStep_cellSample (s := s.setInputs (env m)) h
  ⟨_, ⟨hstep, rfl, rfl, rfl, rfl⟩, rfl, ⟨rfl, rfl, rfl⟩, rfl⟩

theorem coarseSample_run {c : Fin 6} (h : s.progress = .coarseSample c :: rest) :
    ∃ t, BusRun env m 1 s t (if s.params.active ((env m).lines.getLsbD c.val) then probeSteps c ++ rest else rest) 0
        [.sample c ((env m).lines.getLsbD c.val)] ∧
      t.pins = s.pins ∧ (t.txbuf = s.txbuf ∧ t.txpos = s.txpos ∧ t.board = s.board) ∧ t.raw = s.raw :=
  have hstep := sequencerStep_coarseSample (s := s.setInputs (env m)) h
  ⟨_, ⟨hstep, rfl, rfl, rfl, rfl⟩, rfl, ⟨rfl, rfl, rfl⟩, rfl⟩

/-- A sample moves nothing a transfer has left but `RAW`. -/
theorem State.Sent.of_sample {s t : State} {row : Row} {a : BitVec 3} {g : Grid Bool} (h : s.Sent row a g)
    (hparams : t.params = s.params) (hpins : t.pins = s.pins)
    (htx : t.txbuf = s.txbuf ∧ t.txpos = s.txpos ∧ t.board = s.board) : t.Sent row a t.raw where
  txbuf := htx.1.trans h.txbuf
  txpos := htx.2.1.trans h.txpos
  board := htx.2.2.trans h.board
  pins := by rw [hpins, h.pins, hparams]
  raw := rfl

variable (hbus : ∀ k, (env k).busFault = false)
include hbus

/-- A cell's probe, `BUS_FAULT` low: its row is sent and its line sampled right after (43_scanner.md R182). -/
theorem cellSteps_run {c : Fin 6} {y x : Fin 12} (h : s.progress = cellSteps c y x ++ rest) :
    ∃ t, BusRun env m 76 s t rest s.shiftTime
        (shiftEvents s.params (probeRow s.params (s.snapRow (y.val % 6)) x.val y.val) ++
          [.sample c ((env (m + 75)).lines.getLsbD c.val)]) ∧
      t.Sent (probeRow s.params (s.snapRow (y.val % 6)) x.val y.val) s.pins.a
        (if s.params.active ((env (m + 75)).lines.getLsbD c.val) then s.raw.setCell y x true else s.raw) := by
  rw [cellSteps, List.append_assoc] at h
  obtain ⟨t, hshift, hsent⟩ := shiftSteps_run env m hbus h
  obtain ⟨u, hsample, hpins, htx, hraw⟩ := cellSample_run env (m + 75) hshift.progress
  have husent := hsent.of_sample (params_of_unmoved hsample.kept) hpins htx
  rw [hraw, params_of_unmoved hshift.kept, hsent.raw] at husent
  exact ⟨u, hshift.trans hsample, husent⟩

/-- The coarse check, `BUS_FAULT` low: every red bit of the channel's row is sent, and the sample right after decides
whether its probes follow (43_scanner.md R184). -/
theorem coarseSteps_run {c : Fin 6} (h : s.progress = shiftSteps (.snapCoarse c) ++ ([.coarseSample c] ++ rest)) :
    ∃ t, BusRun env m 76 s t
        (if s.params.active ((env (m + 75)).lines.getLsbD c.val) then probeSteps c ++ rest else rest) s.shiftTime
        (shiftEvents s.params (coarseRow s.params (s.snapRow c.val)) ++
          [.sample c ((env (m + 75)).lines.getLsbD c.val)]) ∧
      t.Sent (coarseRow s.params (s.snapRow c.val)) s.pins.a s.raw := by
  obtain ⟨t, hshift, hsent⟩ := shiftSteps_run env m hbus h
  obtain ⟨u, hsample, hpins, htx, hraw⟩ := coarseSample_run env (m + 75) hshift.progress
  have husent := hsent.of_sample (params_of_unmoved hsample.kept) hpins htx
  rw [hraw, hsent.raw] at husent
  rw [params_of_unmoved hshift.kept] at hsample
  exact ⟨u, hshift.trans hsample, husent⟩

end

/-! ### The probes of a channel -/

/-- The row of the cell probe `k` of channel `c` is for (43_scanner.md R185). -/
def probeY (c : Fin 6) (k : Nat) : Fin 12 := Fin.ofNat 12 (c.val + 6 * (k / 12))

/-- Its column. -/
def probeX (k : Nat) : Fin 12 := Fin.ofNat 12 (k % 12)

theorem probeY_val (c : Fin 6) {k : Nat} (hk : k < 24) : (probeY c k).val = c.val + 6 * (k / 12) := by
  simp only [probeY, Fin.val_ofNat]
  omega

theorem probeX_val (k : Nat) : (probeX k).val = k % 12 := by
  simp only [probeX, Fin.val_ofNat]
  omega

/-- The probes of a channel are for different cells: cell `[y][x]` is the one of probe `12 (y div 6) + x` of channel
`y mod 6`. -/
theorem probe_cell_iff (c : Fin 6) {k : Nat} (hk : k < 24) (y x : Fin 12) :
    (y = probeY c k ∧ x = probeX k) ↔ y.val % 6 = c.val ∧ 12 * (y.val / 6) + x.val = k := by
  rw [Fin.ext_iff, Fin.ext_iff, probeY_val c hk, probeX_val]
  omega

/-- `RAW` after `k` probes of channel `c` that begin at step `m` with `RAW` at `g`. -/
def probedRaw (p : Params) (env : Nat → Inputs) (m : Nat) (c : Fin 6) (g : Grid Bool) : Nat → Grid Bool
  | 0 => g
  | k + 1 =>
    let before := probedRaw p env m c g k
    if p.active ((env (m + 76 * k + 75)).lines.getLsbD c.val) then before.setCell (probeY c k) (probeX k) true else before

/-- A cell of `RAW` after `k` probes: true if it was, or its probe has been made and sampled active. -/
theorem cell_probedRaw (p : Params) (env : Nat → Inputs) (m : Nat) (c : Fin 6) (g : Grid Bool) {k : Nat} (hk : k ≤ 24)
    (y x : Fin 12) :
    (probedRaw p env m c g k).cell y x = (g.cell y x || (decide (y.val % 6 = c.val ∧ 12 * (y.val / 6) + x.val < k) &&
      p.active ((env (m + 76 * (12 * (y.val / 6) + x.val) + 75)).lines.getLsbD c.val))) := by
  induction k with
  | zero => simp [probedRaw]
  | succ k ih =>
    have hcell := probe_cell_iff c (k := k) (by omega) y x
    rw [probedRaw]
    by_cases hhit : y = probeY c k ∧ x = probeX k
    · obtain ⟨hchannel, hindex⟩ := hcell.mp hhit
      obtain ⟨rfl, rfl⟩ := hhit
      simp only [hchannel, hindex, true_and, lt_self_iff_false, decide_false, Bool.false_and, Bool.or_false,
        Nat.lt_succ_self, decide_true, Bool.true_and] at ih ⊢
      split
      next hactive => rw [cell_setCell_self, hactive, Bool.or_true]
      next hactive => rw [ih (by omega), Bool.eq_false_of_not_eq_true hactive, Bool.or_false]
    · have hkept : (y.val % 6 = c.val ∧ 12 * (y.val / 6) + x.val < k + 1) ↔
          (y.val % 6 = c.val ∧ 12 * (y.val / 6) + x.val < k) := by
        have hother := mt hcell.mpr hhit
        omega
      rw [decide_eq_decide.mpr hkept, ← ih (by omega)]
      split
      · exact cell_setCell_other _ true hhit
      · rfl

/-- The row probe `k` of channel `c` sends. -/
def State.probeSent (s : State) (c : Fin 6) (k : Nat) : Row :=
  probeRow s.params (s.snapRow c.val) (k % 12) (c.val + 6 * (k / 12))

/-- The events of probe `k` of channel `c`, of probes that begin at step `m`. -/
def State.probeEvents (s : State) (env : Nat → Inputs) (m : Nat) (c : Fin 6) (k : Nat) : List Obs :=
  shiftEvents s.params (s.probeSent c k) ++ [.sample c ((env (m + 76 * k + 75)).lines.getLsbD c.val)]

theorem sum_range_const (n t : Nat) : ((List.range n).map fun _ => t).sum = n * t := by simp

theorem flatMap_range {α : Type} (n : Nat) (f : Nat → List α) :
    (List.range n).flatMap f = (List.finRange n).flatMap fun k => f k.val := by
  rw [← List.map_coe_finRange_eq_range, List.flatMap_map]

/-- The 24 probes of a channel, `BUS_FAULT` low. -/
theorem probeSteps_run (env : Nat → Inputs) (m : Nat) {s : State} {rest : List BusStep}
    (hbus : ∀ k, (env k).busFault = false) {c : Fin 6} (h : s.progress = probeSteps c ++ rest) :
    ∃ t, BusRun env m (24 * 76) s t rest (24 * s.shiftTime) ((List.range 24).flatMap (s.probeEvents env m c)) ∧
      t.Sent (s.probeSent c 23) s.pins.a (probedRaw s.params env m c s.raw 24) := by
  have hsteps : s.progress = (List.finRange 24).flatMap (fun k => cellSteps c (probeY c k.val) (probeX k.val)) ++ rest := by
    rw [h, probeSteps_eq, flatMap_range]
    rfl
  have hstages := stages_run (env := env) (start := fun k => m + 76 * k) (time := fun _ => s.shiftTime)
    (events := fun k => s.probeEvents env m c k.val)
    (holds := fun k t => t.pins.a = s.pins.a ∧ t.raw = probedRaw s.params env m c s.raw k ∧
      ∀ j : Fin 24, k = j.val + 1 → t.Sent (s.probeSent c j.val) s.pins.a (probedRaw s.params env m c s.raw k))
    (fun k => Nat.add_le_add_left (Nat.mul_le_mul_left _ (Nat.le_succ _)) _) ?_
    ⟨rfl, rfl, fun k hk => absurd hk.symm (Nat.succ_ne_zero _)⟩ hsteps
  · obtain ⟨t, hrun, -, -, hsent⟩ := hstages
    rw [flatMap_range]
    exact ⟨t, hrun.congr (by omega) (sum_range_const _ _) rfl, hsent 23 rfl⟩
  · rintro k t rest' hkept ⟨haddr, hraw, -⟩ hprog
    obtain ⟨u, hrun, hsent⟩ := cellSteps_run env (m + 76 * k.val) hbus hprog
    have hrow : t.snapRow c.val = s.snapRow c.val := rowFrom_of_unmoved hkept (.snapRow c)
    have hy := probeY_val c k.isLt
    have hmod : (c.val + 6 * (k.val / 12)) % 6 = c.val := by omega
    rw [params_of_unmoved hkept, hy, hmod, probeX_val, hrow, (times_of_unmoved hkept).2.1] at hrun
    rw [params_of_unmoved hkept, hy, hmod, probeX_val, hrow, haddr, hraw] at hsent
    refine ⟨u, hrun.congr (by omega) rfl rfl, ?_, hsent.raw, fun j hj => ?_⟩
    · rw [hsent.pins]
    · obtain rfl : k = j := Fin.ext (Nat.succ.inj hj)
      exact hsent

/-! ### The sensing of a channel -/

/-- The row the sensing of channel `c` sends last, `go` saying whether its probes are made. -/
def State.senseLast (s : State) (c : Fin 6) (go : Bool) : Row :=
  if go then s.probeSent c 23 else coarseRow s.params (s.snapRow c.val)

/-- `RAW` after the sensing of channel `c`, whose probes begin at step `m` if they are made. -/
def State.senseRaw (s : State) (env : Nat → Inputs) (m : Nat) (c : Fin 6) (go : Bool) : Grid Bool :=
  if go then probedRaw s.params env m c s.raw 24 else s.raw

section
variable {s t : State} (h : t.unmoved = s.unmoved)
include h

theorem snapRow_of_unmoved (c : Fin 6) : t.snapRow c.val = s.snapRow c.val := rowFrom_of_unmoved h (.snapRow c)

theorem probeEvents_of_unmoved : t.probeEvents = s.probeEvents := by
  funext env m c k
  unfold State.probeEvents State.probeSent
  rw [params_of_unmoved h, snapRow_of_unmoved h]

theorem senseLast_of_unmoved (c : Fin 6) (go : Bool) : t.senseLast c go = s.senseLast c go := by
  unfold State.senseLast State.probeSent
  rw [params_of_unmoved h, snapRow_of_unmoved h]

theorem senseRaw_of_unmoved (hraw : t.raw = s.raw) (env : Nat → Inputs) (m : Nat) (c : Fin 6) (go : Bool) :
    t.senseRaw env m c go = s.senseRaw env m c go := by
  unfold State.senseRaw
  rw [params_of_unmoved h, hraw]

end

/-- The coarse check if it is enabled: it decides whether the probes follow, and they do without it. -/
theorem coarseIf_run (env : Nat → Inputs) (m : Nat) {s : State} {rest : List BusStep}
    (hbus : ∀ k, (env k).busFault = false) {c : Fin 6} {go : Bool}
    (h : s.progress = (if s.cfg.coarse then shiftSteps (.snapCoarse c) ++ [.coarseSample c] else probeSteps c) ++ rest)
    (hgo : (!s.cfg.coarse || s.params.active ((env (m + 75)).lines.getLsbD c.val)) = go) :
    ∃ t, BusRun env m (if s.cfg.coarse then 76 else 0) s t (if go then probeSteps c ++ rest else rest)
        (if s.cfg.coarse then s.shiftTime else 0)
        (if s.cfg.coarse then shiftEvents s.params (coarseRow s.params (s.snapRow c.val)) ++
          [.sample c ((env (m + 75)).lines.getLsbD c.val)] else []) ∧
      t.pins.a = s.pins.a ∧ t.raw = s.raw ∧
      (go = false → t.Sent (coarseRow s.params (s.snapRow c.val)) s.pins.a s.raw) := by
  subst hgo
  cases hcoarse : s.cfg.coarse with
  | false =>
    rw [hcoarse] at h
    exact ⟨s, ⟨rfl, rfl, h, rfl, rfl⟩, rfl, rfl, nofun⟩
  | true =>
    rw [hcoarse, if_pos rfl, List.append_assoc] at h
    obtain ⟨t, hrun, hsent⟩ := coarseSteps_run env m hbus h
    exact ⟨t, hrun, by rw [hsent.pins], hsent.raw, fun _ => hsent⟩

/-- The probes of a channel if they are made. -/
theorem probesIf_run (env : Nat → Inputs) (m : Nat) {s : State} {rest : List BusStep}
    (hbus : ∀ k, (env k).busFault = false) {c : Fin 6} {go : Bool}
    (h : s.progress = if go then probeSteps c ++ rest else rest)
    (hsent : go = false → s.Sent (coarseRow s.params (s.snapRow c.val)) s.pins.a s.raw) :
    ∃ t, BusRun env m (if go then 24 * 76 else 0) s t rest (if go then 24 * s.shiftTime else 0)
        (if go then (List.range 24).flatMap (s.probeEvents env m c) else []) ∧
      t.Sent (s.senseLast c go) s.pins.a (s.senseRaw env m c go) := by
  cases go with
  | true => exact probeSteps_run env m hbus h
  | false => exact ⟨s, ⟨rfl, rfl, h, rfl, rfl⟩, hsent rfl⟩

theorem senseEvents_eq (s : State) (env : Nat → Inputs) (start : Nat) (c : Fin 6) :
    senseEvents s.params s.cfg env start c (s.snapRow c.val) =
      [.addr 0] ++ (if s.cfg.coarse then shiftEvents s.params (coarseRow s.params (s.snapRow c.val)) ++
        [.sample c ((env (senseStart s.cfg start + 75)).lines.getLsbD c.val)] else []) ++
      if channelGo s.params s.cfg env start c.val then
        (List.range 24).flatMap (s.probeEvents env (probeStart s.cfg start) c) else [] := rfl

/-- The sensing of a channel that begins at step `start`, `BUS_FAULT` low (43_scanner.md R185). -/
theorem senseSteps_run (env : Nat → Inputs) (start : Nat) {s : State} {rest : List BusStep} {m : Nat}
    (hbus : ∀ k, (env k).busFault = false) {c : Fin 6} (h : s.progress = senseSteps s.cfg c ++ rest)
    (hm : senseStart s.cfg start = m + 2) {go : Bool} (hgo : channelGo s.params s.cfg env start c.val = go) :
    ∃ t, BusRun env m (2 + (if s.cfg.coarse then 76 else 0) + if go then 24 * 76 else 0) s t rest
        (s.settleTime + (if s.cfg.coarse then s.shiftTime else 0) + if go then 24 * s.shiftTime else 0)
        (senseEvents s.params s.cfg env start c (s.snapRow c.val)) ∧
      t.Sent (s.senseLast c go) 0 (s.senseRaw env (probeStart s.cfg start) c go) := by
  rw [senseSteps, List.append_assoc] at h
  obtain ⟨t, haddr, hpins, hraw, -⟩ := addrSteps_run env m h
  have ht := haddr.kept
  have hprog := haddr.progress
  have hgo' := hgo
  rw [channelGo, hm] at hgo'
  rw [← cfg_of_unmoved ht] at hprog hgo'
  rw [← params_of_unmoved ht] at hgo'
  obtain ⟨u, hcoarse, haddr', hraw', hsent⟩ := coarseIf_run env (m + 2) hbus hprog hgo'
  have hu := hcoarse.kept.trans ht
  rw [params_of_unmoved ht, snapRow_of_unmoved ht] at hsent
  rw [cfg_of_unmoved ht, params_of_unmoved ht, snapRow_of_unmoved ht, (times_of_unmoved ht).2.1] at hcoarse
  have hcoarseSent : go = false → u.Sent (coarseRow u.params (u.snapRow c.val)) u.pins.a u.raw := by
    rwa [params_of_unmoved hu, snapRow_of_unmoved hu, haddr', hraw']
  obtain ⟨v, hprobes, hvsent⟩ := probesIf_run env (m + (2 + if s.cfg.coarse then 76 else 0)) hbus hcoarse.progress
    hcoarseSent
  have hprobeStart : m + (2 + if s.cfg.coarse then 76 else 0) = probeStart s.cfg start := by
    rw [probeStart, hm, Nat.add_assoc]
  have haddrZero : u.pins.a = 0 := by rw [haddr', hpins]
  refine ⟨v, ((haddr.trans hcoarse).trans hprobes).congr rfl ?_ ?_, ?_⟩
  · rw [(times_of_unmoved hu).2.1]
  · rw [senseEvents_eq, hprobeStart, probeEvents_of_unmoved hu, hm, hgo]
  · rwa [senseLast_of_unmoved hu, senseRaw_of_unmoved hu (hraw'.trans hraw), haddrZero, hprobeStart] at hvsent

/-! ### The channels of SCAN -/

/-- Whether the probe of a cell is made in a SCAN and sampled active (43_scanner.md R182, R185). -/
def scanProbe (p : Params) (cfg : CfgRegs) (env : Nat → Inputs) (y x : Fin 12) : Bool :=
  let start := channelStart p cfg env (y.val % 6)
  channelGo p cfg env start (y.val % 6) &&
    p.active ((env (probeStart cfg start + 76 * (12 * (y.val / 6) + x.val) + 75)).lines.getLsbD (y.val % 6))

/-- The sensing of channel `c` puts its cells into `RAW`, beside those of the channels before it. -/
theorem cell_senseRaw {s : State} {env : Nat → Inputs} {c : Fin 6}
    (h : ∀ y x, s.raw.cell y x = (decide (y.val % 6 < c.val) && scanProbe s.params s.cfg env y x)) (y x : Fin 12) :
    (s.senseRaw env (probeStart s.cfg (channelStart s.params s.cfg env c.val)) c
      (channelGo s.params s.cfg env (channelStart s.params s.cfg env c.val) c.val)).cell y x =
    (decide (y.val % 6 < c.val + 1) && scanProbe s.params s.cfg env y x) := by
  have hbound : 12 * (y.val / 6) + x.val < 24 := by omega
  unfold State.senseRaw
  by_cases hy : y.val % 6 = c.val
  · have hraw : s.raw.cell y x = false := by rw [h, hy, decide_eq_false (lt_irrefl _), Bool.false_and]
    rw [scanProbe, hy, decide_eq_true (Nat.lt_succ_self _), Bool.true_and]
    split
    next hgo => rw [cell_probedRaw _ _ _ _ _ le_rfl, hraw, hgo, decide_eq_true ⟨hy, hbound⟩, Bool.false_or]
    next hgo => rw [hraw, Bool.eq_false_of_not_eq_true hgo, Bool.false_and]
  · have hlt : y.val % 6 < c.val + 1 ↔ y.val % 6 < c.val := by omega
    rw [decide_eq_decide.mpr hlt, ← h]
    split
    · rw [cell_probedRaw _ _ _ _ _ le_rfl, decide_eq_false fun hcell => hy hcell.1, Bool.false_and, Bool.or_false]
    · rfl

/-- The six channels of SCAN, `BUS_FAULT` low, from a snapshot with `RAW` all false. -/
theorem scanChannels_run (env : Nat → Inputs) {s : State} {rest : List BusStep} (hbus : ∀ k, (env k).busFault = false)
    (hraw : s.raw = Grid.fill false)
    (h : s.progress = (List.finRange 6).flatMap (fun c => driveSteps s.params s.cfg c ++ senseSteps s.cfg c) ++ rest) :
    ∃ t, BusRun env 1 (channelStart s.params s.cfg env 6 - 1) s t rest
        ((List.range 6).map fun c => s.channelTime
          (channelGo s.params s.cfg env (channelStart s.params s.cfg env c) c)).sum
        (scanEvents s.params s.cfg env fun c => s.snapRow c.val) ∧
      t.Sent (s.senseLast 5 (channelGo s.params s.cfg env (channelStart s.params s.cfg env 5) 5)) 0 t.raw ∧
      ∀ y x, t.raw.cell y x = scanProbe s.params s.cfg env y x := by
  have hstages := stages_run (env := env) (s := s) (rest := rest) (start := channelStart s.params s.cfg env)
    (steps := fun c => driveSteps s.params s.cfg c ++ senseSteps s.cfg c)
    (time := fun c => s.channelTime (channelGo s.params s.cfg env (channelStart s.params s.cfg env c) c))
    (events := fun c => driveEvents s.params s.cfg c (s.snapRow c.val) ++
      senseEvents s.params s.cfg env (channelStart s.params s.cfg env c.val) c (s.snapRow c.val))
    (holds := fun k t =>
      (∀ y x, t.raw.cell y x = (decide (y.val % 6 < k) && scanProbe s.params s.cfg env y x)) ∧
      ∀ j : Fin 6, k = j.val + 1 →
        t.Sent (s.senseLast j (channelGo s.params s.cfg env (channelStart s.params s.cfg env j.val) j.val)) 0 t.raw)
    (fun c => by rw [channelStart, probeStart, senseStart]; omega) ?_
    ⟨fun y x => by simp [hraw, cell_fill], fun k hk => absurd hk.symm (Nat.succ_ne_zero _)⟩ h
  · obtain ⟨t, hrun, hcells, hsent⟩ := hstages
    refine ⟨t, hrun, hsent 5 rfl, fun y x => ?_⟩
    rw [hcells, decide_eq_true (Nat.mod_lt _ (by omega)), Bool.true_and]
  · rintro c t rest' hkept ⟨hcells, -⟩ hprog
    rw [List.append_assoc, ← params_of_unmoved hkept, ← cfg_of_unmoved hkept] at hprog
    obtain ⟨u, hdrive, hdriven⟩ := driveSteps_run env (channelStart s.params s.cfg env c.val) hbus hprog
    have hu := hdrive.kept.trans hkept
    have hsense := hdrive.progress
    rw [cfg_of_unmoved hkept, ← cfg_of_unmoved hu] at hsense
    rw [cfg_of_unmoved hkept, params_of_unmoved hkept, snapRow_of_unmoved hkept] at hdrive
    obtain ⟨hsettle, hshift, hon⟩ := times_of_unmoved hkept
    obtain ⟨hsettle', hshift', -⟩ := times_of_unmoved hu
    have hm : senseStart u.cfg (channelStart s.params s.cfg env c.val) =
        channelStart s.params s.cfg env c.val + (78 + if s.cfg.antiGhost then 75 else 0) + 2 := by
      rw [cfg_of_unmoved hu, senseStart]
      omega
    obtain ⟨v, hsensed, hvsent⟩ := senseSteps_run env (channelStart s.params s.cfg env c.val) hbus hsense hm rfl
    rw [cfg_of_unmoved hu, params_of_unmoved hu, snapRow_of_unmoved hu, hsettle', hshift'] at hsensed
    rw [cfg_of_unmoved hu, params_of_unmoved hu, senseLast_of_unmoved hu] at hvsent
    rw [hsettle, hshift, hon] at hdrive
    have hraws : ∀ y x, v.raw.cell y x = (decide (y.val % 6 < c.val + 1) && scanProbe s.params s.cfg env y x) := by
      have hcells' : ∀ y x, u.raw.cell y x = (decide (y.val % 6 < c.val) && scanProbe u.params u.cfg env y x) := by
        rwa [hdriven.raw, cfg_of_unmoved hu, params_of_unmoved hu]
      have hnext := cell_senseRaw hcells'
      rw [cfg_of_unmoved hu, params_of_unmoved hu] at hnext
      rwa [hvsent.raw]
    refine ⟨v, (hdrive.trans hsensed).congr ?_ ?_ rfl, hraws, fun j hj => ?_⟩
    · rw [channelStart, probeStart, senseStart]
      omega
    · rw [State.channelTime]
      omega
    · obtain rfl : c = j := Fin.ext (Nat.succ.inj hj)
      rwa [← hvsent.raw] at hvsent

/-! ### SCAN -/

/-- The debounce pass as a bus step, its results read off any state with the same grids, queue, parameters and
configuration. -/
theorem sequencerStep_debouncePass {s d : State} {rest : List BusStep} (h : s.progress = .debouncePass :: rest)
    (hpart : s.debouncePart = d.debouncePart) :
    sequencerStep s = { s with
      waitCount := 0, cycles := s.cycles + s.waitCount + s.params.tDeb, progress := rest
      prev := d.debouncePass.prev, cnt := d.debouncePass.cnt, stable := d.debouncePass.stable
      evq := d.debouncePass.evq, ovf := d.debouncePass.ovf } := by
  rw [sequencerStep_waited h, State.perform, debouncePass_of_debouncePart
    (s := { s with waitCount := 0, cycles := s.cycles + s.waitCount, progress := rest }) (d := d) hpart]
  generalize d.debouncePass = e
  rfl

/-- The row SCAN sends last, `go` saying whether the probes of the last channel are made. -/
def State.scanLast (s : State) (go : Bool) : Row :=
  if go then probeRow s.params (s.fbRow 5) 11 11 else coarseRow s.params (s.fbRow 5)

/-- The debounce pass and the completion after the channels of SCAN. -/
theorem passSteps_run {s t d : State} (hkept : t.unmoved = s.unmoved) (hprog : t.progress = [.debouncePass, .complete])
    (hpart : t.debouncePart = d.debouncePart) (i j : Inputs) :
    sequencerStep ((sequencerStep (t.setInputs i)).setInputs j) = { s with
      busy := false, runop := 0, progress := [], waitCount := 0
      cycles := t.cycles + t.waitCount + s.params.tDeb, inputs := j
      prev := d.debouncePass.prev, cnt := d.debouncePass.cnt, stable := d.debouncePass.stable
      evq := d.debouncePass.evq, ovf := d.debouncePass.ovf
      txbuf := t.txbuf, txpos := t.txpos, board := t.board, pins := t.pins, raw := t.raw, trace := t.trace } := by
  have hpass := sequencerStep_debouncePass (s := t.setInputs i) hprog (d := d) hpart
  generalize sequencerStep (t.setInputs i) = u at hpass
  rw [sequencerStep_complete (s := u.setInputs j) (rest := []) (by rw [hpass]; rfl)]
  generalize d.debouncePass = e at hpass
  obtain ⟨_, _, _, _, _, _, _, _, _, _, rfl⟩ := exists_of_unmoved hkept
  rw [hpass]
  rfl

theorem debouncePart_of_unmoved {s t : State} (h : t.unmoved = s.unmoved) :
    t.debouncePart = { s with raw := t.raw }.debouncePart := by
  obtain ⟨_, _, _, _, _, _, _, _, _, _, rfl⟩ := exists_of_unmoved h
  rfl

theorem channelStart_pos (p : Params) (cfg : CfgRegs) (env : Nat → Inputs) (c : Nat) : 1 ≤ channelStart p cfg env c := by
  cases c with
  | zero => exact le_rfl
  | succ c =>
    rw [channelStart, probeStart, senseStart]
    omega

/-- The run of SCAN: the snapshot, the six channels, the debounce pass and the completion. -/
theorem scanSteps_run (env : Nat → Inputs) {s : State} (h : s.progress = scanSteps s.params s.cfg)
    (hbus : ∀ k, (env k).busFault = false) :
    ∃ tr g, (∀ d : State, d.debouncePart = { s with raw := g }.debouncePart →
      runWithInputs env (channelStart s.params s.cfg env 6 + 2) s = { s with
        busy := false, runop := 0, progress := [], waitCount := 0, snap := s.fb, raw := g
        prev := d.debouncePass.prev, cnt := d.debouncePass.cnt, stable := d.debouncePass.stable
        evq := d.debouncePass.evq, ovf := d.debouncePass.ovf
        txbuf := s.scanLast (channelGo s.params s.cfg env (channelStart s.params s.cfg env 5) 5), txpos := 72
        board := { shifted := [], latched :=
          s.scanLast (channelGo s.params s.cfg env (channelStart s.params s.cfg env 5) 5) }
        pins := { a := 0, ser := false, sck := false, lat := s.params.latIdle }
        inputs := env (channelStart s.params s.cfg env 6 + 1)
        cycles := s.cycles + s.waitCount + ((List.range 6).map fun c => s.channelTime
          (channelGo s.params s.cfg env (channelStart s.params s.cfg env c) c)).sum + s.params.tDeb
        trace := tr }) ∧
      tr.map Prod.snd = (scanEvents s.params s.cfg env fun c => s.fbRow c.val).reverse ++ s.observations ∧
      ∀ y x, g.cell y x = scanProbe s.params s.cfg env y x := by
  have hsteps : (s.setInputs (env 0)).progress = .snapshotClear ::
      ((List.finRange 6).flatMap (fun c => driveSteps s.params s.cfg c ++ senseSteps s.cfg c) ++
        [.debouncePass, .complete]) := by
    rw [show (s.setInputs (env 0)).progress = s.progress from rfl, h]
    simp [scanSteps]
  have hsnap := sequencerStep_snapshotClear hsteps
  obtain ⟨t, ht⟩ : ∃ t, t = sequencerStep (s.setInputs (env 0)) := ⟨_, rfl⟩
  rw [← ht] at hsnap
  have hparams : t.params = s.params := by rw [hsnap]; rfl
  have hcfg : t.cfg = s.cfg := by rw [hsnap]; rfl
  have hprog : t.progress = (List.finRange 6).flatMap (fun c => driveSteps t.params t.cfg c ++ senseSteps t.cfg c) ++
      [.debouncePass, .complete] := by
    rw [hparams, hcfg, hsnap]
  obtain ⟨u, hrun, hsent, hcells⟩ := scanChannels_run env hbus (by rw [hsnap]) hprog
  rw [hparams, hcfg] at hrun hsent hcells
  have hpart : u.debouncePart = { s with raw := u.raw }.debouncePart := by
    rw [debouncePart_of_unmoved hrun.kept, hsnap]
    rfl
  have hend : runWithInputs env (channelStart s.params s.cfg env 6 + 2) s =
      sequencerStep ((sequencerStep (u.setInputs (env (channelStart s.params s.cfg env 6)))).setInputs
        (env (channelStart s.params s.cfg env 6 + 1))) := by
    have hpos := channelStart_pos s.params s.cfg env 6
    generalize channelStart s.params s.cfg env 6 = n at hrun hpos ⊢
    calc runWithInputs env (n + 2) s = runFrom env 1 (n + 1) t := by rw [runWithInputs_eq, ht]; rfl
      _ = runFrom env 1 (n - 1 + 2) t := by rw [show n - 1 + 2 = n + 1 by omega]
      _ = runFrom env n 2 u := by rw [runFrom_add, hrun.run, show 1 + (n - 1) = n by omega]
  have hlast : ∀ go, t.senseLast 5 go = s.scanLast go := fun go => by
    rw [hsnap]
    rfl
  have hchannel : t.channelTime = s.channelTime := by
    rw [hsnap]
    rfl
  have htime := hrun.time
  rw [hchannel] at htime
  refine ⟨u.trace, u.raw, fun d hd => ?_, ?_, hcells⟩
  · rw [hend, passSteps_run hrun.kept hrun.progress (hpart.trans hd.symm), htime, hsent.txbuf, hsent.txpos, hsent.board, hsent.pins,
      params_of_unmoved hrun.kept, hlast]
    generalize d.debouncePass = e
    rw [hsnap]
    rfl
  · have hshown := hrun.events
    rw [hsnap] at hshown
    exact hshown

end Sys2Proof.Machine

open Sys2Proof Sys2Proof.Machine

/-- Settles O32: the run of SCAN from the state it is accepted in. -/
theorem scanRebuildsRawFromTheProbes : Obligations.ScanRebuildsRawFromTheProbes := by
  intro s env hbusy hfault hinputs
  refine ⟨_, exec_long_accepted rfl hbusy hfault rfl, rfl, ?_⟩
  have hrun := scanSteps_run env (s := (s.setErr .ok).startLong 0xC (scanSteps s.params s.cfg)) rfl
    fun k => (hinputs k).1
  generalize hs₁ : (s.setErr .ok).startLong 0xC (scanSteps s.params s.cfg) = s₁ at hrun
  obtain ⟨tr, g, hend, hshown, hcells⟩ := hrun
  have hcfg : s₁.cfg = s.cfg := hs₁ ▸ rfl
  have hparams : s₁.params = s.params := hs₁ ▸ rfl
  have hchannel : s₁.channelTime = s.channelTime := hs₁ ▸ rfl
  have hend' := hend { s with raw := g } (by rw [← hs₁]; rfl)
  rw [hcfg, hparams, hchannel] at hend'
  rw [hcfg, hparams] at hshown hcells
  rw [show (s.setErr .ok).startLong (Instr.op .scan) (longSteps s.params s.cfg .scan) = s₁ from hs₁]
  refine ⟨?_, ?_, fun c j x => ?_⟩
  · rw [hend']
    generalize State.debouncePass { s with raw := g } = e
    rw [← hs₁]
    rfl
  · rw [← hs₁] at hshown
    rw [hend']
    exact hshown
  · have hcell := hcells ⟨c.val + 6 * j.val, by omega⟩ x
    have hchannel : (c.val + 6 * j.val) % 6 = c.val := by omega
    have hindex : (c.val + 6 * j.val) / 6 = j.val := by omega
    simp only [scanProbe, hchannel, hindex, active_eq] at hcell
    rw [hend']
    exact hcell
end
